-- ==== Sys2Proof/Word.lean ====
section
/-! DEFINITION. The words the hardware is made of: the 64-bit host word, the F64 pattern, the complex sample, the
buffer index. Spec: 00_scope.md R8, 10_state.md R10 and R12. -/

namespace Sys2Proof

/-- One word of the host port, 64 bits (00_scope.md R8, 20_memory.md R28). -/
abbrev Word := BitVec 64

/-- A 64-bit pattern read as an IEEE 754 binary64 value (40_numerics.md R40). The hardware adds, multiplies and flips
the sign bit of these patterns and moves them unchanged, so they stay bit vectors. -/
abbrev F64 := BitVec 64

/-- A host-port word address, 20 bits (20_memory.md R28). -/
abbrev HostAddr := BitVec 20

/-- The index `b` of a sequence buffer `S0` to `S3` (10_state.md R12: `NBUF = 4`, no aliases). -/
abbrev BufIx := Fin 4

/-- A complex sample: "a pair (real: double-precision float, imaginary: double-precision float)" (10_state.md R10). -/
structure Sample where
  re : F64
  im : F64
  deriving DecidableEq, Repr

/-- `CZERO = (+0, +0)` (40_numerics.md R49). -/
def czero : Sample := ⟨0, 0⟩

end Sys2Proof
end

