-- ==== Sys2Proof/Config.lean ====
section
/-! DEFINITION. What an implementation fixes (the open parameters `LOG2_NMAX` and `TWROM`, 00_scope.md R8,
92_eei_decisions.md D4 and D12) and the free values the spec leaves open (93_implementation_defined.md U1, U3, U4,
U13). -/

namespace Sys2Proof

/-- The two open parameters of the hardware: `LOG2_NMAX` (00_scope.md R8) and the ROM image `TWROM`
(42_twiddle_rom.md R71: "`TWROM` is a configuration field of the model"). A `State` carries its configuration, so a
statement over all states is a statement over all configurations; no step changes it (assumption log 3). -/
structure Config where
  /-- `LOG2_NMAX`, `1 <= LOG2_NMAX <= 16`. -/
  log2Nmax : Nat
  /-- `TWROM[0] ... TWROM[NMAX/2 - 1]`. -/
  twrom : List Sample
  deriving DecidableEq, Repr

/-- `NMAX = 2^LOG2_NMAX`: the capacity of a buffer and the largest transform length (00_scope.md R8). -/
def Config.nmax (c : Config) : Nat := 2 ^ c.log2Nmax

/-- FREE VALUE. The word that stands wherever the spec says "any value": an unspecified word of `DATA`
(93_implementation_defined.md U3), the data of a refused read (U4), the pattern of a NaN that an operation produces
(U1). Its argument names the place of use: the step's stamp and the path to the reading or the producing operation,
so two uses are two unrelated values (assumption logs 4, 5, 6). -/
opaque Config.freeWord : List Nat → BitVec 64

/-- FREE VALUE. How many host events get in between the issue of a command and its completion: "finite and otherwise
unconstrained" (93_implementation_defined.md U13; 60_exceptions.md R130). Applied to the step's stamp (assumption
log 1). -/
opaque Config.freeDelay : Nat → Nat

end Sys2Proof
end

