-- ==== Sys2Proof/Syntax.lean ====
section
/-! DEFINITION. The eight commands, one constructor per row of spec/opcode_table.json (30_encoding.md R110). -/

namespace Sys2Proof

/-- A command. `d` is the destination buffer (`RD`), `a` the first source (`RA`), `b` the second source (`RB`), `l` the
Multiply policy (`L`: `false` strict, `true` lenient, 30_encoding.md R112), `m` the immediate `minTargetLength`
(`IMM16`, 30_encoding.md R113). The mnemonics `MUL.L`, `CONV.L`, `CONVIR.L` and `XCORR.L` are the same commands with
`L = 1` (30_encoding.md R117). -/
inductive Instr where
  | pad    (d a : BufIx) (m : Nat)
  | fft    (d a : BufIx)
  | ifft   (d a : BufIx)
  | mul    (d a b : BufIx) (l : Bool)
  | conj   (d a : BufIx)
  | conv   (d a b : BufIx) (l : Bool)
  | convir (d a b : BufIx) (l : Bool)
  | xcorr  (d a b : BufIx) (l : Bool)
  deriving DecidableEq, Repr

/-- `RD`: the destination buffer, the only buffer a command can write (60_exceptions.md R131). -/
def Instr.dest : Instr → BufIx
  | .pad d _ _ => d
  | .fft d _ => d
  | .ifft d _ => d
  | .mul d _ _ _ => d
  | .conj d _ => d
  | .conv d _ _ _ => d
  | .convir d _ _ _ => d
  | .xcorr d _ _ _ => d

/-- The source buffers of a command, first source first (30_encoding.md R110). -/
def Instr.sources : Instr → List BufIx
  | .pad _ a _ => [a]
  | .fft _ a => [a]
  | .ifft _ a => [a]
  | .mul _ a b _ => [a, b]
  | .conj _ a => [a]
  | .conv _ a b _ => [a, b]
  | .convir _ a b _ => [a, b]
  | .xcorr _ a b _ => [a, b]

/-- The name of a buffer in command syntax (30_encoding.md R117). -/
def bufName (b : BufIx) : String := "S" ++ toString b.val

/-- The mnemonic with the `.L` suffix that sets the `L` bit (30_encoding.md R117). -/
def withPolicy (name : String) (l : Bool) : String := if l then name ++ ".L" else name

/-- A command in the syntax of 30_encoding.md R117, destination first. -/
def Instr.asm : Instr → String
  | .pad d a m => "PAD " ++ bufName d ++ ", " ++ bufName a ++ ", #" ++ toString m
  | .fft d a => "FFT " ++ bufName d ++ ", " ++ bufName a
  | .ifft d a => "IFFT " ++ bufName d ++ ", " ++ bufName a
  | .mul d a b l => withPolicy "MUL" l ++ " " ++ bufName d ++ ", " ++ bufName a ++ ", " ++ bufName b
  | .conj d a => "CONJ " ++ bufName d ++ ", " ++ bufName a
  | .conv d a b l => withPolicy "CONV" l ++ " " ++ bufName d ++ ", " ++ bufName a ++ ", " ++ bufName b
  | .convir d a b l => withPolicy "CONVIR" l ++ " " ++ bufName d ++ ", " ++ bufName a ++ ", " ++ bufName b
  | .xcorr d a b l => withPolicy "XCORR" l ++ " " ++ bufName d ++ ", " ++ bufName a ++ ", " ++ bufName b

end Sys2Proof
end

