-- ==== Sys2Proof/WellFormed.lean ====
section
/-! DEFINITION. The checks on terms: a command's immediate, a configuration, and a command word against the mask and
match table of 30_encoding.md R114 (written from that table, independently of the decoder of R115). -/

namespace Sys2Proof

/-- The values an encoding of the command admits (30_encoding.md R111, R113): every buffer index and both values of
`L` are legal; `minTargetLength` is in `0 .. 65535`. -/
def Instr.wellFormed : Instr → Bool
  | .pad _ _ m => decide (m < 2 ^ 16)
  | .fft _ _ => true
  | .ifft _ _ => true
  | .mul _ _ _ _ => true
  | .conj _ _ => true
  | .conv _ _ _ _ => true
  | .convir _ _ _ _ => true
  | .xcorr _ _ _ _ => true

/-- A legal configuration: `1 <= LOG2_NMAX <= 16` (00_scope.md R8) and a ROM of `NMAX/2` entries (10_state.md R24). -/
def Config.wf (c : Config) : Bool :=
  decide (1 ≤ c.log2Nmax) && decide (c.log2Nmax ≤ 16) && decide (c.twrom.length = c.nmax / 2)

/-- `TW-UNIT`: `TWROM[0] = (1.0, +0)` (42_twiddle_rom.md R71). -/
def Config.twUnit (c : Config) : Bool := c.twrom.head? == some ⟨0x3FF0000000000000, 0⟩

/-- `TW-QUARTER`: `TWROM[NMAX/4] = (+0, -1.0)` when `NMAX >= 4` (42_twiddle_rom.md R71). -/
def Config.twQuarter (c : Config) : Bool :=
  decide (c.nmax < 4) || c.twrom[c.nmax / 4]? == some ⟨0, 0xBFF0000000000000⟩

/-- The pattern without its sign bit is at most that of `1.0`: finite, no NaN, magnitude at most 1.0. -/
def atMostOne (x : F64) : Bool := decide (x.toNat % 2 ^ 63 ≤ 0x3FF0000000000000)

/-- `TW-FINITE`: "every word is a finite, non-NaN F64 of magnitude at most 1.0" (42_twiddle_rom.md R71). -/
def Config.twFinite (c : Config) : Bool := c.twrom.all (fun z => atMostOne z.re && atMostOne z.im)

/-- A row of the table of 30_encoding.md R114: a word `w` is legal for the row when `w and mask = match`. -/
structure OpRow where
  mnemonic : String
  mask : BitVec 32
  pattern : BitVec 32
  deriving DecidableEq, Repr

/-- The eight rows of 30_encoding.md R114, the same as spec/opcode_table.json. -/
def opRows : List OpRow :=
  [⟨"PAD",    0xF0FF0000, 0x10000000⟩,
   ⟨"FFT",    0xF0FFFFFF, 0x20000000⟩,
   ⟨"IFFT",   0xF0FFFFFF, 0x30000000⟩,
   ⟨"MUL",    0xF01FFFFF, 0x40000000⟩,
   ⟨"CONJ",   0xF0FFFFFF, 0x50000000⟩,
   ⟨"CONV",   0xF01FFFFF, 0x60000000⟩,
   ⟨"CONVIR", 0xF01FFFFF, 0x70000000⟩,
   ⟨"XCORR",  0xF01FFFFF, 0x80000000⟩]

/-- `w and mask = match` (30_encoding.md R114). -/
def OpRow.matches (r : OpRow) (w : BitVec 32) : Bool := w &&& r.mask == r.pattern

/-- A legal value for `CMD`: the upper half zero (30_encoding.md R108) and the lower half legal for one of the eight
rows (30_encoding.md R114). -/
def cmdWordLegal (v : Word) : Bool :=
  v.extractLsb' 32 32 == 0 && opRows.any (fun r => r.matches (v.extractLsb' 0 32))

end Sys2Proof
end

