-- ==== Sys2Proof/Decode.lean ====
section
/-! DEFINITION. The decoder of the value written to `CMD` (30_encoding.md R115), total, rejecting by name; after it the
encoder (30_encoding.md R109, R117). -/

namespace Sys2Proof

/-- Why a value is no command (60_exceptions.md R124: "non-zero upper half, reserved opcode, non-zero reserved field, or
a non-zero field the opcode does not use"). The hardware reports only that it is illegal. -/
inductive Illegal where
  /-- Bits 63:32 are not zero (30_encoding.md R108). -/
  | upperHalf
  /-- The reserved field `ZERO`, bits 20:16, is not zero (30_encoding.md R109). -/
  | zeroField
  /-- `OPC` is 0 or 9 to 15 (30_encoding.md R110). -/
  | reservedOpcode
  /-- `RB`, `L` or `IMM16` is not zero in a command that does not use it (30_encoding.md R114). -/
  | unusedField
  deriving DecidableEq, Repr

/-- What `Decode` answers: a command or `Illegal` (30_encoding.md R115). -/
inductive Decoded where
  | command (i : Instr)
  | illegal (why : Illegal)
  deriving DecidableEq, Repr

/-- The field `w[hi:lo]`, `hi = lo + n - 1`, as an unsigned integer (00_scope.md 5.1). -/
def field (v : Word) (lo n : Nat) : Nat := (v.extractLsb' lo n).toNat

/-- A 2-bit buffer index at bits `lo+1:lo` (30_encoding.md R111: "all four values are legal"). -/
def bufField (v : Word) (lo : Nat) : BufIx := (v.extractLsb' lo 2).toFin

/-- `RD`, bits 27:26 (30_encoding.md R109). -/
def fieldRD (v : Word) : BufIx := bufField v 26
/-- `RA`, bits 25:24 (30_encoding.md R109). -/
def fieldRA (v : Word) : BufIx := bufField v 24
/-- `RB`, bits 23:22 (30_encoding.md R109). -/
def fieldRB (v : Word) : BufIx := bufField v 22
/-- `L`, bit 21 (30_encoding.md R109). -/
def fieldL (v : Word) : Bool := v.getLsbD 21
/-- `IMM16`, bits 15:0, zero-extended (30_encoding.md R113). -/
def fieldImm (v : Word) : Nat := field v 0 16

/-- A one-source command with no immediate: `RB`, `L` and `IMM16` must be zero. -/
def decodeOneSource (v : Word) (mk : BufIx → BufIx → Instr) : Decoded :=
  if field v 21 3 ≠ 0 ∨ field v 0 16 ≠ 0 then .illegal .unusedField
  else .command (mk (fieldRD v) (fieldRA v))

/-- A two-source command with the policy bit: `IMM16` must be zero. -/
def decodeTwoSource (v : Word) (mk : BufIx → BufIx → BufIx → Bool → Instr) : Decoded :=
  if field v 0 16 ≠ 0 then .illegal .unusedField
  else .command (mk (fieldRD v) (fieldRA v) (fieldRB v) (fieldL v))

/-- `PAD`: `RB` and `L` must be zero. -/
def decodePad (v : Word) : Decoded :=
  if field v 21 3 ≠ 0 then .illegal .unusedField
  else .command (.pad (fieldRD v) (fieldRA v) (fieldImm v))

/-- `case w[31:28] of ...` of 30_encoding.md R115. -/
def decodeOpcode (v : Word) : Decoded :=
  match field v 28 4 with
  | 1 => decodePad v
  | 2 => decodeOneSource v .fft
  | 3 => decodeOneSource v .ifft
  | 4 => decodeTwoSource v .mul
  | 5 => decodeOneSource v .conj
  | 6 => decodeTwoSource v .conv
  | 7 => decodeTwoSource v .convir
  | 8 => decodeTwoSource v .xcorr
  | _ => .illegal .reservedOpcode

/-- `Decode(v)` of the 64-bit value written to `CMD` (30_encoding.md R115). -/
def decode (v : Word) : Decoded :=
  if field v 32 32 ≠ 0 then .illegal .upperHalf
  else if field v 16 5 ≠ 0 then .illegal .zeroField
  else decodeOpcode v

/-- The instruction the decoder reads from an opcode-table word `w` of `nbits` bits, zero-extended as a `CMD` write
carries it (30_encoding.md R108); `none` where the decoder refuses. A value of more than 64 bits is no value of `CMD`. -/
def decodeTableWord (nbits w : Nat) : Option Instr :=
  if w % 2 ^ nbits < 2 ^ 64 then
    match decode (BitVec.ofNat 64 (w % 2 ^ nbits)) with
    | .command i => some i
    | .illegal _ => none
  else none

/-- `OPC`, bits 31:28 (30_encoding.md R110). -/
def Instr.opcode : Instr → Nat
  | .pad .. => 1
  | .fft .. => 2
  | .ifft .. => 3
  | .mul .. => 4
  | .conj .. => 5
  | .conv .. => 6
  | .convir .. => 7
  | .xcorr .. => 8

/-- "The encoding of a line is `OPC<<28 | d<<26 | a<<24 | b<<22 | L<<21 | m`" (30_encoding.md R117); the fields do not
overlap, so the sum is the same number. -/
def cmdWord (opc : Nat) (d a b : BufIx) (l : Bool) (m : Nat) : Word :=
  BitVec.ofNat 64 (opc * 2 ^ 28 + d.val * 2 ^ 26 + a.val * 2 ^ 24 + b.val * 2 ^ 22 + l.toNat * 2 ^ 21 + m)

/-- The value a host writes to `CMD` to issue the command, the 32-bit word zero-extended (30_encoding.md R108, R117). -/
def encode (i : Instr) : Word :=
  match i with
  | .pad d a m => cmdWord i.opcode d a 0 false m
  | .fft d a => cmdWord i.opcode d a 0 false 0
  | .ifft d a => cmdWord i.opcode d a 0 false 0
  | .mul d a b l => cmdWord i.opcode d a b l 0
  | .conj d a => cmdWord i.opcode d a 0 false 0
  | .conv d a b l => cmdWord i.opcode d a b l 0
  | .convir d a b l => cmdWord i.opcode d a b l 0
  | .xcorr d a b l => cmdWord i.opcode d a b l 0

end Sys2Proof
end

