-- ==== Sys2Proof/Machine/Memory.lean ====
section
/-! DEFINITION. The sample storage `DATA[b][i]`: a sparse memory of 64-bit words keyed by their host word address, and
the places of the buffers in the host space (10_state.md R12, 20_memory.md R29). -/

namespace Sys2Proof.Machine

/-- The smallest addressable unit is the 64-bit word: "there is no byte, halfword or 32-bit access" (20_memory.md R35), so
a cell is a word address and a word (assumption log 11). -/
abbrev MemCell := Nat × Word

/-- The words of `DATA` that hold a definite value, in rising order of address. An address that is not listed holds an
unspecified word: "any value, and not stable" (10_state.md R15, R27; 93_implementation_defined.md U3). -/
abbrev Memory := List MemCell

/-- The word address of `DATA[b][i].re` (`c = 0`) or `DATA[b][i].im` (`c = 1`): `0x80000 + b*0x20000 + 2*i + c`
(20_memory.md R29). -/
def dataAddr (b : BufIx) (i c : Nat) : Nat := 0x80000 + b.val * 0x20000 + 2 * i + c

/-- The first word address of buffer `b` (20_memory.md R29). -/
def bufBase (b : BufIx) : Nat := dataAddr b 0 0

/-- The address lies in the region of buffer `b`: `0x20000` words from its base, populated or not (20_memory.md R29). -/
def inBuffer (b : BufIx) (a : Nat) : Bool := decide (bufBase b ≤ a) && decide (a < bufBase b + 0x20000)

/-- The address is a populated word of the buffer region: `0x80000 + b*0x20000 + 2*i + c` with `i < NMAX`
(20_memory.md R29). -/
def populatedData (c : Config) (a : Nat) : Bool :=
  decide (0x80000 ≤ a) && decide (a < 0x100000) && decide (a % 0x20000 / 2 < c.nmax)

/-- The word at an address, `none` where it is unspecified. The one read of memory in the model. -/
def Memory.read : Memory → Nat → Option Word
  | [], _ => none
  | (k, v) :: m, a => if k = a then some v else Memory.read m a

/-- Store one word, keeping the canonical form. -/
def Memory.write : Memory → Nat → Word → Memory
  | [], a, v => [(a, v)]
  | (k, w) :: m, a, v =>
    if a < k then (a, v) :: (k, w) :: m
    else if a = k then (a, v) :: m
    else (k, w) :: Memory.write m a v

/-- The cells of a sequence laid out from address `a`: real part at the even address, imaginary part at the odd one
(20_memory.md R35). -/
def seqCells : Nat → List Sample → Memory
  | _, [] => []
  | a, z :: q => (a, z.re) :: (a + 1, z.im) :: seqCells (a + 2) q

/-- `DATA[d][0..len(q)) <- q`, "the rest of `DATA[d]` unspecified" (60_exceptions.md R131, 10_state.md R15): the cells of
buffer `d` are replaced by those of `q`. -/
def Memory.storeSeq (m : Memory) (d : BufIx) (q : List Sample) : Memory :=
  m.filter (fun cell => decide (cell.1 < bufBase d)) ++ seqCells (bufBase d) q
    ++ m.filter (fun cell => decide (bufBase d + 0x20000 ≤ cell.1))

/-- The word at an address as a use at site `p` sees it: the stored word, or a free value where the word is unspecified
(93_implementation_defined.md U3, assumption log 4). -/
def Memory.wordAt (m : Memory) (p : List Nat) (a : Nat) : Word :=
  (m.read a).getD (Config.freeWord (a :: p))

/-- Addresses strictly rising. -/
def risingFrom : Nat → Memory → Bool
  | _, [] => true
  | lo, (k, _) :: m => decide (lo ≤ k) && risingFrom (k + 1) m

/-- The canonical form of memory: addresses strictly rising, every one a populated word of the buffer region. -/
def Memory.wf (c : Config) (m : Memory) : Bool :=
  risingFrom 0 m && m.all (fun cell => populatedData c cell.1)

end Sys2Proof.Machine
end

