-- ==== Sys2Proof/Machine/TwiddleRom.lean ====
section
/-! DEFINITION. The default twiddle ROM image: all 512 entries for `NMAX = 1024`, row by row as 49_twiddle_table_1024.md
R156 gives them, and its sub-samplings for smaller capacities (42_twiddle_rom.md R69). -/

namespace Sys2Proof.Machine

/-- Rows 0 to 31 of 49_twiddle_table_1024.md R156. -/
def romRows00 : List Sample :=
  [⟨0x3FF0000000000000, 0x0000000000000000⟩,
   ⟨0x3FEFFFD8858E8A92, 0xBF7921F0FE670071⟩,
   ⟨0x3FEFFF62169B92DB, 0xBF8921D1FCDEC784⟩,
   ⟨0x3FEFFE9CB44B51A1, 0xBF92D936BBE30EFD⟩,
   ⟨0x3FEFFD886084CD0D, 0xBF992155F7A3667E⟩,
   ⟨0x3FEFFC251DF1D3F8, 0xBF9F693731D1CF01⟩,
   ⟨0x3FEFFA72EFFEF75D, 0xBFA2D865759455CD⟩,
   ⟨0x3FEFF871DADB81DF, 0xBFA5FC00D290CD43⟩,
   ⟨0x3FEFF621E3796D7E, 0xBFA91F65F10DD814⟩,
   ⟨0x3FEFF3830F8D575C, 0xBFAC428D12C0D7E3⟩,
   ⟨0x3FEFF095658E71AD, 0xBFAF656E79F820E0⟩,
   ⟨0x3FEFED58ECB673C4, 0xBFB1440134D709B3⟩,
   ⟨0x3FEFE9CDAD01883A, 0xBFB2D52092CE19F6⟩,
   ⟨0x3FEFE5F3AF2E3940, 0xBFB4661179272096⟩,
   ⟨0x3FEFE1CAFCBD5B09, 0xBFB5F6D00A9AA419⟩,
   ⟨0x3FEFDD539FF1F456, 0xBFB787586A5D5B21⟩,
   ⟨0x3FEFD88DA3D12526, 0xBFB917A6BC29B42C⟩,
   ⟨0x3FEFD37914220B84, 0xBFBAA7B724495C03⟩,
   ⟨0x3FEFCE15FD6DA67B, 0xBFBC3785C79EC2D5⟩,
   ⟨0x3FEFC8646CFEB721, 0xBFBDC70ECBAE9FC9⟩,
   ⟨0x3FEFC26470E19FD3, 0xBFBF564E56A9730E⟩,
   ⟨0x3FEFBC1617E44186, 0xBFC072A047BA831D⟩,
   ⟨0x3FEFB5797195D741, 0xBFC139F0CEDAF577⟩,
   ⟨0x3FEFAE8E8E46CFBB, 0xBFC20116D4EC7BCF⟩,
   ⟨0x3FEFA7557F08A517, 0xBFC2C8106E8E613A⟩,
   ⟨0x3FEF9FCE55ADB2C8, 0xBFC38EDBB0CD8D14⟩,
   ⟨0x3FEF97F924C9099B, 0xBFC45576B1293E5A⟩,
   ⟨0x3FEF8FD5FFAE41DB, 0xBFC51BDF8597C5F2⟩,
   ⟨0x3FEF8764FA714BA9, 0xBFC5E214448B3FC6⟩,
   ⟨0x3FEF7EA629E63D6E, 0xBFC6A81304F64AB2⟩,
   ⟨0x3FEF7599A3A12077, 0xBFC76DD9DE50BF31⟩,
   ⟨0x3FEF6C3F7DF5BBB7, 0xBFC83366E89C64C6⟩]

/-- Rows 32 to 63 of 49_twiddle_table_1024.md R156. -/
def romRows01 : List Sample :=
  [⟨0x3FEF6297CFF75CB0, 0xBFC8F8B83C69A60B⟩,
   ⟨0x3FEF58A2B1789E84, 0xBFC9BDCBF2DC4366⟩,
   ⟨0x3FEF4E603B0B2F2D, 0xBFCA82A025B00451⟩,
   ⟨0x3FEF43D085FF92DD, 0xBFCB4732EF3D6722⟩,
   ⟨0x3FEF38F3AC64E589, 0xBFCC0B826A7E4F63⟩,
   ⟨0x3FEF2DC9C9089A9D, 0xBFCCCF8CB312B286⟩,
   ⟨0x3FEF2252F7763ADA, 0xBFCD934FE5454311⟩,
   ⟨0x3FEF168F53F7205D, 0xBFCE56CA1E101A1B⟩,
   ⟨0x3FEF0A7EFB9230D7, 0xBFCF19F97B215F1B⟩,
   ⟨0x3FEEFE220C0B95EC, 0xBFCFDCDC1ADFEDF9⟩,
   ⟨0x3FEEF178A3E473C2, 0xBFD04FB80E37FDAE⟩,
   ⟨0x3FEEE482E25A9DBC, 0xBFD0B0D9CFDBDB90⟩,
   ⟨0x3FEED740E7684963, 0xBFD111D262B1F677⟩,
   ⟨0x3FEEC9B2D3C3BF84, 0xBFD172A0D7765177⟩,
   ⟨0x3FEEBBD8C8DF0B74, 0xBFD1D3443F4CDB3E⟩,
   ⟨0x3FEEADB2E8E7A88E, 0xBFD233BBABC3BB71⟩,
   ⟨0x3FEE9F4156C62DDA, 0xBFD294062ED59F06⟩,
   ⟨0x3FEE9084361DF7F2, 0xBFD2F422DAEC0387⟩,
   ⟨0x3FEE817BAB4CD10D, 0xBFD35410C2E18152⟩,
   ⟨0x3FEE7227DB6A9744, 0xBFD3B3CEFA0414B7⟩,
   ⟨0x3FEE6288EC48E112, 0xBFD4135C94176601⟩,
   ⟨0x3FEE529F04729FFC, 0xBFD472B8A5571054⟩,
   ⟨0x3FEE426A4B2BC17E, 0xBFD4D1E24278E76A⟩,
   ⟨0x3FEE31EAE870CE25, 0xBFD530D880AF3C24⟩,
   ⟨0x3FEE212104F686E5, 0xBFD58F9A75AB1FDD⟩,
   ⟨0x3FEE100CCA2980AC, 0xBFD5EE27379EA693⟩,
   ⟨0x3FEDFEAE622DBE2B, 0xBFD64C7DDD3F27C6⟩,
   ⟨0x3FEDED05F7DE47DA, 0xBFD6AA9D7DC77E17⟩,
   ⟨0x3FEDDB13B6CCC23C, 0xBFD7088530FA459F⟩,
   ⟨0x3FEDC8D7CB410260, 0xBFD766340F2418F6⟩,
   ⟨0x3FEDB6526238A09B, 0xBFD7C3A9311DCCE7⟩,
   ⟨0x3FEDA383A9668988, 0xBFD820E3B04EAAC4⟩]

/-- Rows 64 to 95 of 49_twiddle_table_1024.md R156. -/
def romRows02 : List Sample :=
  [⟨0x3FED906BCF328D46, 0xBFD87DE2A6AEA963⟩,
   ⟨0x3FED7D0B02B8ECF9, 0xBFD8DAA52EC8A4B0⟩,
   ⟨0x3FED696173C9E68B, 0xBFD9372A63BC93D7⟩,
   ⟨0x3FED556F52E93EB1, 0xBFD993716141BDFF⟩,
   ⟨0x3FED4134D14DC93A, 0xBFD9EF7943A8ED8A⟩,
   ⟨0x3FED2CB220E0EF9F, 0xBFDA4B4127DEA1E5⟩,
   ⟨0x3FED17E7743E35DC, 0xBFDAA6C82B6D3FCA⟩,
   ⟨0x3FED02D4FEB2BD92, 0xBFDB020D6C7F4009⟩,
   ⟨0x3FECED7AF43CC773, 0xBFDB5D1009E15CC0⟩,
   ⟨0x3FECD7D9898B32F6, 0xBFDBB7CF2304BD01⟩,
   ⟨0x3FECC1F0F3FCFC5C, 0xBFDC1249D8011EE7⟩,
   ⟨0x3FECABC169A0B900, 0xBFDC6C7F4997000B⟩,
   ⟨0x3FEC954B213411F5, 0xBFDCC66E9931C45E⟩,
   ⟨0x3FEC7E8E52233CF3, 0xBFDD2016E8E9DB5B⟩,
   ⟨0x3FEC678B3488739B, 0xBFDD79775B86E389⟩,
   ⟨0x3FEC5042012B6907, 0xBFDDD28F1481CC58⟩,
   ⟨0x3FEC38B2F180BDB1, 0xBFDE2B5D3806F63B⟩,
   ⟨0x3FEC20DE3FA971B0, 0xBFDE83E0EAF85114⟩,
   ⟨0x3FEC08C426725549, 0xBFDEDC1952EF78D6⟩,
   ⟨0x3FEBF064E15377DD, 0xBFDF3405963FD067⟩,
   ⟨0x3FEBD7C0AC6F952A, 0xBFDF8BA4DBF89ABA⟩,
   ⟨0x3FEBBED7C49380EA, 0xBFDFE2F64BE71210⟩,
   ⟨0x3FEBA5AA673590D2, 0xBFE01CFC874C3EB7⟩,
   ⟨0x3FEB8C38D27504E9, 0xBFE0485626AE221A⟩,
   ⟨0x3FEB728345196E3E, 0xBFE073879922FFEE⟩,
   ⟨0x3FEB5889FE921405, 0xBFE09E907417C5E1⟩,
   ⟨0x3FEB3E4D3EF55712, 0xBFE0C9704D5D898F⟩,
   ⟨0x3FEB23CD470013B4, 0xBFE0F426BB2A8E7E⟩,
   ⟨0x3FEB090A58150200, 0xBFE11EB3541B4B23⟩,
   ⟨0x3FEAEE04B43C1474, 0xBFE14915AF336CEB⟩,
   ⟨0x3FEAD2BC9E21D511, 0xBFE1734D63DEDB49⟩,
   ⟨0x3FEAB7325916C0D4, 0xBFE19D5A09F2B9B8⟩]

/-- Rows 96 to 127 of 49_twiddle_table_1024.md R156. -/
def romRows03 : List Sample :=
  [⟨0x3FEA9B66290EA1A3, 0xBFE1C73B39AE68C8⟩,
   ⟨0x3FEA7F58529FE69D, 0xBFE1F0F08BBC861B⟩,
   ⟨0x3FEA63091B02FAE2, 0xBFE21A799933EB59⟩,
   ⟨0x3FEA4678C8119AC8, 0xBFE243D5FB98AC1F⟩,
   ⟨0x3FEA29A7A0462782, 0xBFE26D054CDD12DF⟩,
   ⟨0x3FEA0C95EABAF937, 0xBFE2960727629CA8⟩,
   ⟨0x3FE9EF43EF29AF94, 0xBFE2BEDB25FAF3EA⟩,
   ⟨0x3FE9D1B1F5EA80D5, 0xBFE2E780E3E8EA17⟩,
   ⟨0x3FE9B3E047F38741, 0xBFE30FF7FCE17035⟩,
   ⟨0x3FE995CF2ED80D22, 0xBFE338400D0C8E57⟩,
   ⟨0x3FE9777EF4C7D742, 0xBFE36058B10659F3⟩,
   ⟨0x3FE958EFE48E6DD7, 0xBFE3884185DFEB22⟩,
   ⟨0x3FE93A22499263FB, 0xBFE3AFFA292050B9⟩,
   ⟨0x3FE91B166FD49DA2, 0xBFE3D78238C58344⟩,
   ⟨0x3FE8FBCCA3EF940D, 0xBFE3FED9534556D4⟩,
   ⟨0x3FE8DC45331698CC, 0xBFE425FF178E6BB1⟩,
   ⟨0x3FE8BC806B151741, 0xBFE44CF325091DD6⟩,
   ⟨0x3FE89C7E9A4DD4AA, 0xBFE473B51B987347⟩,
   ⟨0x3FE87C400FBA2EBF, 0xBFE49A449B9B0939⟩,
   ⟨0x3FE85BC51AE958CC, 0xBFE4C0A145EC0004⟩,
   ⟨0x3FE83B0E0BFF976E, 0xBFE4E6CABBE3E5E9⟩,
   ⟨0x3FE81A1B33B57ACC, 0xBFE50CC09F59A09B⟩,
   ⟨0x3FE7F8ECE3571771, 0xBFE5328292A35596⟩,
   ⟨0x3FE7D7836CC33DB2, 0xBFE5581038975137⟩,
   ⟨0x3FE7B5DF226AAFAF, 0xBFE57D69348CECA0⟩,
   ⟨0x3FE79400574F55E5, 0xBFE5A28D2A5D7250⟩,
   ⟨0x3FE771E75F037261, 0xBFE5C77BBE65018C⟩,
   ⟨0x3FE74F948DA8D28D, 0xBFE5EC3495837074⟩,
   ⟨0x3FE72D0837EFFF96, 0xBFE610B7551D2CDF⟩,
   ⟨0x3FE70A42B3176D7A, 0xBFE63503A31C1BE9⟩,
   ⟨0x3FE6E74454EAA8AF, 0xBFE6591925F0783D⟩,
   ⟨0x3FE6C40D73C18275, 0xBFE67CF78491AF10⟩]

/-- Rows 128 to 159 of 49_twiddle_table_1024.md R156. -/
def romRows04 : List Sample :=
  [⟨0x3FE6A09E667F3BCD, 0xBFE6A09E667F3BCD⟩,
   ⟨0x3FE67CF78491AF10, 0xBFE6C40D73C18275⟩,
   ⟨0x3FE6591925F0783D, 0xBFE6E74454EAA8AF⟩,
   ⟨0x3FE63503A31C1BE9, 0xBFE70A42B3176D7A⟩,
   ⟨0x3FE610B7551D2CDF, 0xBFE72D0837EFFF96⟩,
   ⟨0x3FE5EC3495837074, 0xBFE74F948DA8D28D⟩,
   ⟨0x3FE5C77BBE65018C, 0xBFE771E75F037261⟩,
   ⟨0x3FE5A28D2A5D7250, 0xBFE79400574F55E5⟩,
   ⟨0x3FE57D69348CECA0, 0xBFE7B5DF226AAFAF⟩,
   ⟨0x3FE5581038975137, 0xBFE7D7836CC33DB2⟩,
   ⟨0x3FE5328292A35596, 0xBFE7F8ECE3571771⟩,
   ⟨0x3FE50CC09F59A09B, 0xBFE81A1B33B57ACC⟩,
   ⟨0x3FE4E6CABBE3E5E9, 0xBFE83B0E0BFF976E⟩,
   ⟨0x3FE4C0A145EC0004, 0xBFE85BC51AE958CC⟩,
   ⟨0x3FE49A449B9B0939, 0xBFE87C400FBA2EBF⟩,
   ⟨0x3FE473B51B987347, 0xBFE89C7E9A4DD4AA⟩,
   ⟨0x3FE44CF325091DD6, 0xBFE8BC806B151741⟩,
   ⟨0x3FE425FF178E6BB1, 0xBFE8DC45331698CC⟩,
   ⟨0x3FE3FED9534556D4, 0xBFE8FBCCA3EF940D⟩,
   ⟨0x3FE3D78238C58344, 0xBFE91B166FD49DA2⟩,
   ⟨0x3FE3AFFA292050B9, 0xBFE93A22499263FB⟩,
   ⟨0x3FE3884185DFEB22, 0xBFE958EFE48E6DD7⟩,
   ⟨0x3FE36058B10659F3, 0xBFE9777EF4C7D742⟩,
   ⟨0x3FE338400D0C8E57, 0xBFE995CF2ED80D22⟩,
   ⟨0x3FE30FF7FCE17035, 0xBFE9B3E047F38741⟩,
   ⟨0x3FE2E780E3E8EA17, 0xBFE9D1B1F5EA80D5⟩,
   ⟨0x3FE2BEDB25FAF3EA, 0xBFE9EF43EF29AF94⟩,
   ⟨0x3FE2960727629CA8, 0xBFEA0C95EABAF937⟩,
   ⟨0x3FE26D054CDD12DF, 0xBFEA29A7A0462782⟩,
   ⟨0x3FE243D5FB98AC1F, 0xBFEA4678C8119AC8⟩,
   ⟨0x3FE21A799933EB59, 0xBFEA63091B02FAE2⟩,
   ⟨0x3FE1F0F08BBC861B, 0xBFEA7F58529FE69D⟩]

/-- Rows 160 to 191 of 49_twiddle_table_1024.md R156. -/
def romRows05 : List Sample :=
  [⟨0x3FE1C73B39AE68C8, 0xBFEA9B66290EA1A3⟩,
   ⟨0x3FE19D5A09F2B9B8, 0xBFEAB7325916C0D4⟩,
   ⟨0x3FE1734D63DEDB49, 0xBFEAD2BC9E21D511⟩,
   ⟨0x3FE14915AF336CEB, 0xBFEAEE04B43C1474⟩,
   ⟨0x3FE11EB3541B4B23, 0xBFEB090A58150200⟩,
   ⟨0x3FE0F426BB2A8E7E, 0xBFEB23CD470013B4⟩,
   ⟨0x3FE0C9704D5D898F, 0xBFEB3E4D3EF55712⟩,
   ⟨0x3FE09E907417C5E1, 0xBFEB5889FE921405⟩,
   ⟨0x3FE073879922FFEE, 0xBFEB728345196E3E⟩,
   ⟨0x3FE0485626AE221A, 0xBFEB8C38D27504E9⟩,
   ⟨0x3FE01CFC874C3EB7, 0xBFEBA5AA673590D2⟩,
   ⟨0x3FDFE2F64BE71210, 0xBFEBBED7C49380EA⟩,
   ⟨0x3FDF8BA4DBF89ABA, 0xBFEBD7C0AC6F952A⟩,
   ⟨0x3FDF3405963FD067, 0xBFEBF064E15377DD⟩,
   ⟨0x3FDEDC1952EF78D6, 0xBFEC08C426725549⟩,
   ⟨0x3FDE83E0EAF85114, 0xBFEC20DE3FA971B0⟩,
   ⟨0x3FDE2B5D3806F63B, 0xBFEC38B2F180BDB1⟩,
   ⟨0x3FDDD28F1481CC58, 0xBFEC5042012B6907⟩,
   ⟨0x3FDD79775B86E389, 0xBFEC678B3488739B⟩,
   ⟨0x3FDD2016E8E9DB5B, 0xBFEC7E8E52233CF3⟩,
   ⟨0x3FDCC66E9931C45E, 0xBFEC954B213411F5⟩,
   ⟨0x3FDC6C7F4997000B, 0xBFECABC169A0B900⟩,
   ⟨0x3FDC1249D8011EE7, 0xBFECC1F0F3FCFC5C⟩,
   ⟨0x3FDBB7CF2304BD01, 0xBFECD7D9898B32F6⟩,
   ⟨0x3FDB5D1009E15CC0, 0xBFECED7AF43CC773⟩,
   ⟨0x3FDB020D6C7F4009, 0xBFED02D4FEB2BD92⟩,
   ⟨0x3FDAA6C82B6D3FCA, 0xBFED17E7743E35DC⟩,
   ⟨0x3FDA4B4127DEA1E5, 0xBFED2CB220E0EF9F⟩,
   ⟨0x3FD9EF7943A8ED8A, 0xBFED4134D14DC93A⟩,
   ⟨0x3FD993716141BDFF, 0xBFED556F52E93EB1⟩,
   ⟨0x3FD9372A63BC93D7, 0xBFED696173C9E68B⟩,
   ⟨0x3FD8DAA52EC8A4B0, 0xBFED7D0B02B8ECF9⟩]

/-- Rows 192 to 223 of 49_twiddle_table_1024.md R156. -/
def romRows06 : List Sample :=
  [⟨0x3FD87DE2A6AEA963, 0xBFED906BCF328D46⟩,
   ⟨0x3FD820E3B04EAAC4, 0xBFEDA383A9668988⟩,
   ⟨0x3FD7C3A9311DCCE7, 0xBFEDB6526238A09B⟩,
   ⟨0x3FD766340F2418F6, 0xBFEDC8D7CB410260⟩,
   ⟨0x3FD7088530FA459F, 0xBFEDDB13B6CCC23C⟩,
   ⟨0x3FD6AA9D7DC77E17, 0xBFEDED05F7DE47DA⟩,
   ⟨0x3FD64C7DDD3F27C6, 0xBFEDFEAE622DBE2B⟩,
   ⟨0x3FD5EE27379EA693, 0xBFEE100CCA2980AC⟩,
   ⟨0x3FD58F9A75AB1FDD, 0xBFEE212104F686E5⟩,
   ⟨0x3FD530D880AF3C24, 0xBFEE31EAE870CE25⟩,
   ⟨0x3FD4D1E24278E76A, 0xBFEE426A4B2BC17E⟩,
   ⟨0x3FD472B8A5571054, 0xBFEE529F04729FFC⟩,
   ⟨0x3FD4135C94176601, 0xBFEE6288EC48E112⟩,
   ⟨0x3FD3B3CEFA0414B7, 0xBFEE7227DB6A9744⟩,
   ⟨0x3FD35410C2E18152, 0xBFEE817BAB4CD10D⟩,
   ⟨0x3FD2F422DAEC0387, 0xBFEE9084361DF7F2⟩,
   ⟨0x3FD294062ED59F06, 0xBFEE9F4156C62DDA⟩,
   ⟨0x3FD233BBABC3BB71, 0xBFEEADB2E8E7A88E⟩,
   ⟨0x3FD1D3443F4CDB3E, 0xBFEEBBD8C8DF0B74⟩,
   ⟨0x3FD172A0D7765177, 0xBFEEC9B2D3C3BF84⟩,
   ⟨0x3FD111D262B1F677, 0xBFEED740E7684963⟩,
   ⟨0x3FD0B0D9CFDBDB90, 0xBFEEE482E25A9DBC⟩,
   ⟨0x3FD04FB80E37FDAE, 0xBFEEF178A3E473C2⟩,
   ⟨0x3FCFDCDC1ADFEDF9, 0xBFEEFE220C0B95EC⟩,
   ⟨0x3FCF19F97B215F1B, 0xBFEF0A7EFB9230D7⟩,
   ⟨0x3FCE56CA1E101A1B, 0xBFEF168F53F7205D⟩,
   ⟨0x3FCD934FE5454311, 0xBFEF2252F7763ADA⟩,
   ⟨0x3FCCCF8CB312B286, 0xBFEF2DC9C9089A9D⟩,
   ⟨0x3FCC0B826A7E4F63, 0xBFEF38F3AC64E589⟩,
   ⟨0x3FCB4732EF3D6722, 0xBFEF43D085FF92DD⟩,
   ⟨0x3FCA82A025B00451, 0xBFEF4E603B0B2F2D⟩,
   ⟨0x3FC9BDCBF2DC4366, 0xBFEF58A2B1789E84⟩]

/-- Rows 224 to 255 of 49_twiddle_table_1024.md R156. -/
def romRows07 : List Sample :=
  [⟨0x3FC8F8B83C69A60B, 0xBFEF6297CFF75CB0⟩,
   ⟨0x3FC83366E89C64C6, 0xBFEF6C3F7DF5BBB7⟩,
   ⟨0x3FC76DD9DE50BF31, 0xBFEF7599A3A12077⟩,
   ⟨0x3FC6A81304F64AB2, 0xBFEF7EA629E63D6E⟩,
   ⟨0x3FC5E214448B3FC6, 0xBFEF8764FA714BA9⟩,
   ⟨0x3FC51BDF8597C5F2, 0xBFEF8FD5FFAE41DB⟩,
   ⟨0x3FC45576B1293E5A, 0xBFEF97F924C9099B⟩,
   ⟨0x3FC38EDBB0CD8D14, 0xBFEF9FCE55ADB2C8⟩,
   ⟨0x3FC2C8106E8E613A, 0xBFEFA7557F08A517⟩,
   ⟨0x3FC20116D4EC7BCF, 0xBFEFAE8E8E46CFBB⟩,
   ⟨0x3FC139F0CEDAF577, 0xBFEFB5797195D741⟩,
   ⟨0x3FC072A047BA831D, 0xBFEFBC1617E44186⟩,
   ⟨0x3FBF564E56A9730E, 0xBFEFC26470E19FD3⟩,
   ⟨0x3FBDC70ECBAE9FC9, 0xBFEFC8646CFEB721⟩,
   ⟨0x3FBC3785C79EC2D5, 0xBFEFCE15FD6DA67B⟩,
   ⟨0x3FBAA7B724495C03, 0xBFEFD37914220B84⟩,
   ⟨0x3FB917A6BC29B42C, 0xBFEFD88DA3D12526⟩,
   ⟨0x3FB787586A5D5B21, 0xBFEFDD539FF1F456⟩,
   ⟨0x3FB5F6D00A9AA419, 0xBFEFE1CAFCBD5B09⟩,
   ⟨0x3FB4661179272096, 0xBFEFE5F3AF2E3940⟩,
   ⟨0x3FB2D52092CE19F6, 0xBFEFE9CDAD01883A⟩,
   ⟨0x3FB1440134D709B3, 0xBFEFED58ECB673C4⟩,
   ⟨0x3FAF656E79F820E0, 0xBFEFF095658E71AD⟩,
   ⟨0x3FAC428D12C0D7E3, 0xBFEFF3830F8D575C⟩,
   ⟨0x3FA91F65F10DD814, 0xBFEFF621E3796D7E⟩,
   ⟨0x3FA5FC00D290CD43, 0xBFEFF871DADB81DF⟩,
   ⟨0x3FA2D865759455CD, 0xBFEFFA72EFFEF75D⟩,
   ⟨0x3F9F693731D1CF01, 0xBFEFFC251DF1D3F8⟩,
   ⟨0x3F992155F7A3667E, 0xBFEFFD886084CD0D⟩,
   ⟨0x3F92D936BBE30EFD, 0xBFEFFE9CB44B51A1⟩,
   ⟨0x3F8921D1FCDEC784, 0xBFEFFF62169B92DB⟩,
   ⟨0x3F7921F0FE670071, 0xBFEFFFD8858E8A92⟩]

/-- Rows 256 to 287 of 49_twiddle_table_1024.md R156. -/
def romRows08 : List Sample :=
  [⟨0x0000000000000000, 0xBFF0000000000000⟩,
   ⟨0xBF7921F0FE670071, 0xBFEFFFD8858E8A92⟩,
   ⟨0xBF8921D1FCDEC784, 0xBFEFFF62169B92DB⟩,
   ⟨0xBF92D936BBE30EFD, 0xBFEFFE9CB44B51A1⟩,
   ⟨0xBF992155F7A3667E, 0xBFEFFD886084CD0D⟩,
   ⟨0xBF9F693731D1CF01, 0xBFEFFC251DF1D3F8⟩,
   ⟨0xBFA2D865759455CD, 0xBFEFFA72EFFEF75D⟩,
   ⟨0xBFA5FC00D290CD43, 0xBFEFF871DADB81DF⟩,
   ⟨0xBFA91F65F10DD814, 0xBFEFF621E3796D7E⟩,
   ⟨0xBFAC428D12C0D7E3, 0xBFEFF3830F8D575C⟩,
   ⟨0xBFAF656E79F820E0, 0xBFEFF095658E71AD⟩,
   ⟨0xBFB1440134D709B3, 0xBFEFED58ECB673C4⟩,
   ⟨0xBFB2D52092CE19F6, 0xBFEFE9CDAD01883A⟩,
   ⟨0xBFB4661179272096, 0xBFEFE5F3AF2E3940⟩,
   ⟨0xBFB5F6D00A9AA419, 0xBFEFE1CAFCBD5B09⟩,
   ⟨0xBFB787586A5D5B21, 0xBFEFDD539FF1F456⟩,
   ⟨0xBFB917A6BC29B42C, 0xBFEFD88DA3D12526⟩,
   ⟨0xBFBAA7B724495C03, 0xBFEFD37914220B84⟩,
   ⟨0xBFBC3785C79EC2D5, 0xBFEFCE15FD6DA67B⟩,
   ⟨0xBFBDC70ECBAE9FC9, 0xBFEFC8646CFEB721⟩,
   ⟨0xBFBF564E56A9730E, 0xBFEFC26470E19FD3⟩,
   ⟨0xBFC072A047BA831D, 0xBFEFBC1617E44186⟩,
   ⟨0xBFC139F0CEDAF577, 0xBFEFB5797195D741⟩,
   ⟨0xBFC20116D4EC7BCF, 0xBFEFAE8E8E46CFBB⟩,
   ⟨0xBFC2C8106E8E613A, 0xBFEFA7557F08A517⟩,
   ⟨0xBFC38EDBB0CD8D14, 0xBFEF9FCE55ADB2C8⟩,
   ⟨0xBFC45576B1293E5A, 0xBFEF97F924C9099B⟩,
   ⟨0xBFC51BDF8597C5F2, 0xBFEF8FD5FFAE41DB⟩,
   ⟨0xBFC5E214448B3FC6, 0xBFEF8764FA714BA9⟩,
   ⟨0xBFC6A81304F64AB2, 0xBFEF7EA629E63D6E⟩,
   ⟨0xBFC76DD9DE50BF31, 0xBFEF7599A3A12077⟩,
   ⟨0xBFC83366E89C64C6, 0xBFEF6C3F7DF5BBB7⟩]

/-- Rows 288 to 319 of 49_twiddle_table_1024.md R156. -/
def romRows09 : List Sample :=
  [⟨0xBFC8F8B83C69A60B, 0xBFEF6297CFF75CB0⟩,
   ⟨0xBFC9BDCBF2DC4366, 0xBFEF58A2B1789E84⟩,
   ⟨0xBFCA82A025B00451, 0xBFEF4E603B0B2F2D⟩,
   ⟨0xBFCB4732EF3D6722, 0xBFEF43D085FF92DD⟩,
   ⟨0xBFCC0B826A7E4F63, 0xBFEF38F3AC64E589⟩,
   ⟨0xBFCCCF8CB312B286, 0xBFEF2DC9C9089A9D⟩,
   ⟨0xBFCD934FE5454311, 0xBFEF2252F7763ADA⟩,
   ⟨0xBFCE56CA1E101A1B, 0xBFEF168F53F7205D⟩,
   ⟨0xBFCF19F97B215F1B, 0xBFEF0A7EFB9230D7⟩,
   ⟨0xBFCFDCDC1ADFEDF9, 0xBFEEFE220C0B95EC⟩,
   ⟨0xBFD04FB80E37FDAE, 0xBFEEF178A3E473C2⟩,
   ⟨0xBFD0B0D9CFDBDB90, 0xBFEEE482E25A9DBC⟩,
   ⟨0xBFD111D262B1F677, 0xBFEED740E7684963⟩,
   ⟨0xBFD172A0D7765177, 0xBFEEC9B2D3C3BF84⟩,
   ⟨0xBFD1D3443F4CDB3E, 0xBFEEBBD8C8DF0B74⟩,
   ⟨0xBFD233BBABC3BB71, 0xBFEEADB2E8E7A88E⟩,
   ⟨0xBFD294062ED59F06, 0xBFEE9F4156C62DDA⟩,
   ⟨0xBFD2F422DAEC0387, 0xBFEE9084361DF7F2⟩,
   ⟨0xBFD35410C2E18152, 0xBFEE817BAB4CD10D⟩,
   ⟨0xBFD3B3CEFA0414B7, 0xBFEE7227DB6A9744⟩,
   ⟨0xBFD4135C94176601, 0xBFEE6288EC48E112⟩,
   ⟨0xBFD472B8A5571054, 0xBFEE529F04729FFC⟩,
   ⟨0xBFD4D1E24278E76A, 0xBFEE426A4B2BC17E⟩,
   ⟨0xBFD530D880AF3C24, 0xBFEE31EAE870CE25⟩,
   ⟨0xBFD58F9A75AB1FDD, 0xBFEE212104F686E5⟩,
   ⟨0xBFD5EE27379EA693, 0xBFEE100CCA2980AC⟩,
   ⟨0xBFD64C7DDD3F27C6, 0xBFEDFEAE622DBE2B⟩,
   ⟨0xBFD6AA9D7DC77E17, 0xBFEDED05F7DE47DA⟩,
   ⟨0xBFD7088530FA459F, 0xBFEDDB13B6CCC23C⟩,
   ⟨0xBFD766340F2418F6, 0xBFEDC8D7CB410260⟩,
   ⟨0xBFD7C3A9311DCCE7, 0xBFEDB6526238A09B⟩,
   ⟨0xBFD820E3B04EAAC4, 0xBFEDA383A9668988⟩]

/-- Rows 320 to 351 of 49_twiddle_table_1024.md R156. -/
def romRows10 : List Sample :=
  [⟨0xBFD87DE2A6AEA963, 0xBFED906BCF328D46⟩,
   ⟨0xBFD8DAA52EC8A4B0, 0xBFED7D0B02B8ECF9⟩,
   ⟨0xBFD9372A63BC93D7, 0xBFED696173C9E68B⟩,
   ⟨0xBFD993716141BDFF, 0xBFED556F52E93EB1⟩,
   ⟨0xBFD9EF7943A8ED8A, 0xBFED4134D14DC93A⟩,
   ⟨0xBFDA4B4127DEA1E5, 0xBFED2CB220E0EF9F⟩,
   ⟨0xBFDAA6C82B6D3FCA, 0xBFED17E7743E35DC⟩,
   ⟨0xBFDB020D6C7F4009, 0xBFED02D4FEB2BD92⟩,
   ⟨0xBFDB5D1009E15CC0, 0xBFECED7AF43CC773⟩,
   ⟨0xBFDBB7CF2304BD01, 0xBFECD7D9898B32F6⟩,
   ⟨0xBFDC1249D8011EE7, 0xBFECC1F0F3FCFC5C⟩,
   ⟨0xBFDC6C7F4997000B, 0xBFECABC169A0B900⟩,
   ⟨0xBFDCC66E9931C45E, 0xBFEC954B213411F5⟩,
   ⟨0xBFDD2016E8E9DB5B, 0xBFEC7E8E52233CF3⟩,
   ⟨0xBFDD79775B86E389, 0xBFEC678B3488739B⟩,
   ⟨0xBFDDD28F1481CC58, 0xBFEC5042012B6907⟩,
   ⟨0xBFDE2B5D3806F63B, 0xBFEC38B2F180BDB1⟩,
   ⟨0xBFDE83E0EAF85114, 0xBFEC20DE3FA971B0⟩,
   ⟨0xBFDEDC1952EF78D6, 0xBFEC08C426725549⟩,
   ⟨0xBFDF3405963FD067, 0xBFEBF064E15377DD⟩,
   ⟨0xBFDF8BA4DBF89ABA, 0xBFEBD7C0AC6F952A⟩,
   ⟨0xBFDFE2F64BE71210, 0xBFEBBED7C49380EA⟩,
   ⟨0xBFE01CFC874C3EB7, 0xBFEBA5AA673590D2⟩,
   ⟨0xBFE0485626AE221A, 0xBFEB8C38D27504E9⟩,
   ⟨0xBFE073879922FFEE, 0xBFEB728345196E3E⟩,
   ⟨0xBFE09E907417C5E1, 0xBFEB5889FE921405⟩,
   ⟨0xBFE0C9704D5D898F, 0xBFEB3E4D3EF55712⟩,
   ⟨0xBFE0F426BB2A8E7E, 0xBFEB23CD470013B4⟩,
   ⟨0xBFE11EB3541B4B23, 0xBFEB090A58150200⟩,
   ⟨0xBFE14915AF336CEB, 0xBFEAEE04B43C1474⟩,
   ⟨0xBFE1734D63DEDB49, 0xBFEAD2BC9E21D511⟩,
   ⟨0xBFE19D5A09F2B9B8, 0xBFEAB7325916C0D4⟩]

/-- Rows 352 to 383 of 49_twiddle_table_1024.md R156. -/
def romRows11 : List Sample :=
  [⟨0xBFE1C73B39AE68C8, 0xBFEA9B66290EA1A3⟩,
   ⟨0xBFE1F0F08BBC861B, 0xBFEA7F58529FE69D⟩,
   ⟨0xBFE21A799933EB59, 0xBFEA63091B02FAE2⟩,
   ⟨0xBFE243D5FB98AC1F, 0xBFEA4678C8119AC8⟩,
   ⟨0xBFE26D054CDD12DF, 0xBFEA29A7A0462782⟩,
   ⟨0xBFE2960727629CA8, 0xBFEA0C95EABAF937⟩,
   ⟨0xBFE2BEDB25FAF3EA, 0xBFE9EF43EF29AF94⟩,
   ⟨0xBFE2E780E3E8EA17, 0xBFE9D1B1F5EA80D5⟩,
   ⟨0xBFE30FF7FCE17035, 0xBFE9B3E047F38741⟩,
   ⟨0xBFE338400D0C8E57, 0xBFE995CF2ED80D22⟩,
   ⟨0xBFE36058B10659F3, 0xBFE9777EF4C7D742⟩,
   ⟨0xBFE3884185DFEB22, 0xBFE958EFE48E6DD7⟩,
   ⟨0xBFE3AFFA292050B9, 0xBFE93A22499263FB⟩,
   ⟨0xBFE3D78238C58344, 0xBFE91B166FD49DA2⟩,
   ⟨0xBFE3FED9534556D4, 0xBFE8FBCCA3EF940D⟩,
   ⟨0xBFE425FF178E6BB1, 0xBFE8DC45331698CC⟩,
   ⟨0xBFE44CF325091DD6, 0xBFE8BC806B151741⟩,
   ⟨0xBFE473B51B987347, 0xBFE89C7E9A4DD4AA⟩,
   ⟨0xBFE49A449B9B0939, 0xBFE87C400FBA2EBF⟩,
   ⟨0xBFE4C0A145EC0004, 0xBFE85BC51AE958CC⟩,
   ⟨0xBFE4E6CABBE3E5E9, 0xBFE83B0E0BFF976E⟩,
   ⟨0xBFE50CC09F59A09B, 0xBFE81A1B33B57ACC⟩,
   ⟨0xBFE5328292A35596, 0xBFE7F8ECE3571771⟩,
   ⟨0xBFE5581038975137, 0xBFE7D7836CC33DB2⟩,
   ⟨0xBFE57D69348CECA0, 0xBFE7B5DF226AAFAF⟩,
   ⟨0xBFE5A28D2A5D7250, 0xBFE79400574F55E5⟩,
   ⟨0xBFE5C77BBE65018C, 0xBFE771E75F037261⟩,
   ⟨0xBFE5EC3495837074, 0xBFE74F948DA8D28D⟩,
   ⟨0xBFE610B7551D2CDF, 0xBFE72D0837EFFF96⟩,
   ⟨0xBFE63503A31C1BE9, 0xBFE70A42B3176D7A⟩,
   ⟨0xBFE6591925F0783D, 0xBFE6E74454EAA8AF⟩,
   ⟨0xBFE67CF78491AF10, 0xBFE6C40D73C18275⟩]

/-- Rows 384 to 415 of 49_twiddle_table_1024.md R156. -/
def romRows12 : List Sample :=
  [⟨0xBFE6A09E667F3BCD, 0xBFE6A09E667F3BCD⟩,
   ⟨0xBFE6C40D73C18275, 0xBFE67CF78491AF10⟩,
   ⟨0xBFE6E74454EAA8AF, 0xBFE6591925F0783D⟩,
   ⟨0xBFE70A42B3176D7A, 0xBFE63503A31C1BE9⟩,
   ⟨0xBFE72D0837EFFF96, 0xBFE610B7551D2CDF⟩,
   ⟨0xBFE74F948DA8D28D, 0xBFE5EC3495837074⟩,
   ⟨0xBFE771E75F037261, 0xBFE5C77BBE65018C⟩,
   ⟨0xBFE79400574F55E5, 0xBFE5A28D2A5D7250⟩,
   ⟨0xBFE7B5DF226AAFAF, 0xBFE57D69348CECA0⟩,
   ⟨0xBFE7D7836CC33DB2, 0xBFE5581038975137⟩,
   ⟨0xBFE7F8ECE3571771, 0xBFE5328292A35596⟩,
   ⟨0xBFE81A1B33B57ACC, 0xBFE50CC09F59A09B⟩,
   ⟨0xBFE83B0E0BFF976E, 0xBFE4E6CABBE3E5E9⟩,
   ⟨0xBFE85BC51AE958CC, 0xBFE4C0A145EC0004⟩,
   ⟨0xBFE87C400FBA2EBF, 0xBFE49A449B9B0939⟩,
   ⟨0xBFE89C7E9A4DD4AA, 0xBFE473B51B987347⟩,
   ⟨0xBFE8BC806B151741, 0xBFE44CF325091DD6⟩,
   ⟨0xBFE8DC45331698CC, 0xBFE425FF178E6BB1⟩,
   ⟨0xBFE8FBCCA3EF940D, 0xBFE3FED9534556D4⟩,
   ⟨0xBFE91B166FD49DA2, 0xBFE3D78238C58344⟩,
   ⟨0xBFE93A22499263FB, 0xBFE3AFFA292050B9⟩,
   ⟨0xBFE958EFE48E6DD7, 0xBFE3884185DFEB22⟩,
   ⟨0xBFE9777EF4C7D742, 0xBFE36058B10659F3⟩,
   ⟨0xBFE995CF2ED80D22, 0xBFE338400D0C8E57⟩,
   ⟨0xBFE9B3E047F38741, 0xBFE30FF7FCE17035⟩,
   ⟨0xBFE9D1B1F5EA80D5, 0xBFE2E780E3E8EA17⟩,
   ⟨0xBFE9EF43EF29AF94, 0xBFE2BEDB25FAF3EA⟩,
   ⟨0xBFEA0C95EABAF937, 0xBFE2960727629CA8⟩,
   ⟨0xBFEA29A7A0462782, 0xBFE26D054CDD12DF⟩,
   ⟨0xBFEA4678C8119AC8, 0xBFE243D5FB98AC1F⟩,
   ⟨0xBFEA63091B02FAE2, 0xBFE21A799933EB59⟩,
   ⟨0xBFEA7F58529FE69D, 0xBFE1F0F08BBC861B⟩]

/-- Rows 416 to 447 of 49_twiddle_table_1024.md R156. -/
def romRows13 : List Sample :=
  [⟨0xBFEA9B66290EA1A3, 0xBFE1C73B39AE68C8⟩,
   ⟨0xBFEAB7325916C0D4, 0xBFE19D5A09F2B9B8⟩,
   ⟨0xBFEAD2BC9E21D511, 0xBFE1734D63DEDB49⟩,
   ⟨0xBFEAEE04B43C1474, 0xBFE14915AF336CEB⟩,
   ⟨0xBFEB090A58150200, 0xBFE11EB3541B4B23⟩,
   ⟨0xBFEB23CD470013B4, 0xBFE0F426BB2A8E7E⟩,
   ⟨0xBFEB3E4D3EF55712, 0xBFE0C9704D5D898F⟩,
   ⟨0xBFEB5889FE921405, 0xBFE09E907417C5E1⟩,
   ⟨0xBFEB728345196E3E, 0xBFE073879922FFEE⟩,
   ⟨0xBFEB8C38D27504E9, 0xBFE0485626AE221A⟩,
   ⟨0xBFEBA5AA673590D2, 0xBFE01CFC874C3EB7⟩,
   ⟨0xBFEBBED7C49380EA, 0xBFDFE2F64BE71210⟩,
   ⟨0xBFEBD7C0AC6F952A, 0xBFDF8BA4DBF89ABA⟩,
   ⟨0xBFEBF064E15377DD, 0xBFDF3405963FD067⟩,
   ⟨0xBFEC08C426725549, 0xBFDEDC1952EF78D6⟩,
   ⟨0xBFEC20DE3FA971B0, 0xBFDE83E0EAF85114⟩,
   ⟨0xBFEC38B2F180BDB1, 0xBFDE2B5D3806F63B⟩,
   ⟨0xBFEC5042012B6907, 0xBFDDD28F1481CC58⟩,
   ⟨0xBFEC678B3488739B, 0xBFDD79775B86E389⟩,
   ⟨0xBFEC7E8E52233CF3, 0xBFDD2016E8E9DB5B⟩,
   ⟨0xBFEC954B213411F5, 0xBFDCC66E9931C45E⟩,
   ⟨0xBFECABC169A0B900, 0xBFDC6C7F4997000B⟩,
   ⟨0xBFECC1F0F3FCFC5C, 0xBFDC1249D8011EE7⟩,
   ⟨0xBFECD7D9898B32F6, 0xBFDBB7CF2304BD01⟩,
   ⟨0xBFECED7AF43CC773, 0xBFDB5D1009E15CC0⟩,
   ⟨0xBFED02D4FEB2BD92, 0xBFDB020D6C7F4009⟩,
   ⟨0xBFED17E7743E35DC, 0xBFDAA6C82B6D3FCA⟩,
   ⟨0xBFED2CB220E0EF9F, 0xBFDA4B4127DEA1E5⟩,
   ⟨0xBFED4134D14DC93A, 0xBFD9EF7943A8ED8A⟩,
   ⟨0xBFED556F52E93EB1, 0xBFD993716141BDFF⟩,
   ⟨0xBFED696173C9E68B, 0xBFD9372A63BC93D7⟩,
   ⟨0xBFED7D0B02B8ECF9, 0xBFD8DAA52EC8A4B0⟩]

/-- Rows 448 to 479 of 49_twiddle_table_1024.md R156. -/
def romRows14 : List Sample :=
  [⟨0xBFED906BCF328D46, 0xBFD87DE2A6AEA963⟩,
   ⟨0xBFEDA383A9668988, 0xBFD820E3B04EAAC4⟩,
   ⟨0xBFEDB6526238A09B, 0xBFD7C3A9311DCCE7⟩,
   ⟨0xBFEDC8D7CB410260, 0xBFD766340F2418F6⟩,
   ⟨0xBFEDDB13B6CCC23C, 0xBFD7088530FA459F⟩,
   ⟨0xBFEDED05F7DE47DA, 0xBFD6AA9D7DC77E17⟩,
   ⟨0xBFEDFEAE622DBE2B, 0xBFD64C7DDD3F27C6⟩,
   ⟨0xBFEE100CCA2980AC, 0xBFD5EE27379EA693⟩,
   ⟨0xBFEE212104F686E5, 0xBFD58F9A75AB1FDD⟩,
   ⟨0xBFEE31EAE870CE25, 0xBFD530D880AF3C24⟩,
   ⟨0xBFEE426A4B2BC17E, 0xBFD4D1E24278E76A⟩,
   ⟨0xBFEE529F04729FFC, 0xBFD472B8A5571054⟩,
   ⟨0xBFEE6288EC48E112, 0xBFD4135C94176601⟩,
   ⟨0xBFEE7227DB6A9744, 0xBFD3B3CEFA0414B7⟩,
   ⟨0xBFEE817BAB4CD10D, 0xBFD35410C2E18152⟩,
   ⟨0xBFEE9084361DF7F2, 0xBFD2F422DAEC0387⟩,
   ⟨0xBFEE9F4156C62DDA, 0xBFD294062ED59F06⟩,
   ⟨0xBFEEADB2E8E7A88E, 0xBFD233BBABC3BB71⟩,
   ⟨0xBFEEBBD8C8DF0B74, 0xBFD1D3443F4CDB3E⟩,
   ⟨0xBFEEC9B2D3C3BF84, 0xBFD172A0D7765177⟩,
   ⟨0xBFEED740E7684963, 0xBFD111D262B1F677⟩,
   ⟨0xBFEEE482E25A9DBC, 0xBFD0B0D9CFDBDB90⟩,
   ⟨0xBFEEF178A3E473C2, 0xBFD04FB80E37FDAE⟩,
   ⟨0xBFEEFE220C0B95EC, 0xBFCFDCDC1ADFEDF9⟩,
   ⟨0xBFEF0A7EFB9230D7, 0xBFCF19F97B215F1B⟩,
   ⟨0xBFEF168F53F7205D, 0xBFCE56CA1E101A1B⟩,
   ⟨0xBFEF2252F7763ADA, 0xBFCD934FE5454311⟩,
   ⟨0xBFEF2DC9C9089A9D, 0xBFCCCF8CB312B286⟩,
   ⟨0xBFEF38F3AC64E589, 0xBFCC0B826A7E4F63⟩,
   ⟨0xBFEF43D085FF92DD, 0xBFCB4732EF3D6722⟩,
   ⟨0xBFEF4E603B0B2F2D, 0xBFCA82A025B00451⟩,
   ⟨0xBFEF58A2B1789E84, 0xBFC9BDCBF2DC4366⟩]

/-- Rows 480 to 511 of 49_twiddle_table_1024.md R156. -/
def romRows15 : List Sample :=
  [⟨0xBFEF6297CFF75CB0, 0xBFC8F8B83C69A60B⟩,
   ⟨0xBFEF6C3F7DF5BBB7, 0xBFC83366E89C64C6⟩,
   ⟨0xBFEF7599A3A12077, 0xBFC76DD9DE50BF31⟩,
   ⟨0xBFEF7EA629E63D6E, 0xBFC6A81304F64AB2⟩,
   ⟨0xBFEF8764FA714BA9, 0xBFC5E214448B3FC6⟩,
   ⟨0xBFEF8FD5FFAE41DB, 0xBFC51BDF8597C5F2⟩,
   ⟨0xBFEF97F924C9099B, 0xBFC45576B1293E5A⟩,
   ⟨0xBFEF9FCE55ADB2C8, 0xBFC38EDBB0CD8D14⟩,
   ⟨0xBFEFA7557F08A517, 0xBFC2C8106E8E613A⟩,
   ⟨0xBFEFAE8E8E46CFBB, 0xBFC20116D4EC7BCF⟩,
   ⟨0xBFEFB5797195D741, 0xBFC139F0CEDAF577⟩,
   ⟨0xBFEFBC1617E44186, 0xBFC072A047BA831D⟩,
   ⟨0xBFEFC26470E19FD3, 0xBFBF564E56A9730E⟩,
   ⟨0xBFEFC8646CFEB721, 0xBFBDC70ECBAE9FC9⟩,
   ⟨0xBFEFCE15FD6DA67B, 0xBFBC3785C79EC2D5⟩,
   ⟨0xBFEFD37914220B84, 0xBFBAA7B724495C03⟩,
   ⟨0xBFEFD88DA3D12526, 0xBFB917A6BC29B42C⟩,
   ⟨0xBFEFDD539FF1F456, 0xBFB787586A5D5B21⟩,
   ⟨0xBFEFE1CAFCBD5B09, 0xBFB5F6D00A9AA419⟩,
   ⟨0xBFEFE5F3AF2E3940, 0xBFB4661179272096⟩,
   ⟨0xBFEFE9CDAD01883A, 0xBFB2D52092CE19F6⟩,
   ⟨0xBFEFED58ECB673C4, 0xBFB1440134D709B3⟩,
   ⟨0xBFEFF095658E71AD, 0xBFAF656E79F820E0⟩,
   ⟨0xBFEFF3830F8D575C, 0xBFAC428D12C0D7E3⟩,
   ⟨0xBFEFF621E3796D7E, 0xBFA91F65F10DD814⟩,
   ⟨0xBFEFF871DADB81DF, 0xBFA5FC00D290CD43⟩,
   ⟨0xBFEFFA72EFFEF75D, 0xBFA2D865759455CD⟩,
   ⟨0xBFEFFC251DF1D3F8, 0xBF9F693731D1CF01⟩,
   ⟨0xBFEFFD886084CD0D, 0xBF992155F7A3667E⟩,
   ⟨0xBFEFFE9CB44B51A1, 0xBF92D936BBE30EFD⟩,
   ⟨0xBFEFFF62169B92DB, 0xBF8921D1FCDEC784⟩,
   ⟨0xBFEFFFD8858E8A92, 0xBF7921F0FE670071⟩]

/-- `TWROM` for `NMAX = 1024` (49_twiddle_table_1024.md R156). -/
def romDefault : List Sample :=
  romRows00 ++ romRows01 ++ romRows02 ++ romRows03 ++ romRows04 ++ romRows05 ++ romRows06 ++ romRows07
    ++ romRows08 ++ romRows09 ++ romRows10 ++ romRows11 ++ romRows12 ++ romRows13 ++ romRows14 ++ romRows15

/-- Every `step`-th entry, starting with the first; `skip` entries are dropped before the next one is kept. -/
def everyNth (step : Nat) : Nat → List Sample → List Sample
  | _, [] => []
  | 0, z :: rest => z :: everyNth step (step - 1) rest
  | skip + 1, _ :: rest => everyNth step skip rest

/-- `TWROM` for `NMAX = 2^n`, `1 <= n <= 10`: "every `2^t`-th entry of the table" for `NMAX = 1024`, `t = 10 - n`
(42_twiddle_rom.md R69). -/
def romFor (n : Nat) : List Sample := everyNth (2 ^ (10 - n)) 0 romDefault

/-- The default configuration: `LOG2_NMAX = 10` and the image of R156 (00_scope.md R8). -/
def configDefault : Config := ⟨10, romDefault⟩

/-- The default configuration of a smaller capacity, `1 <= n <= 10` (00_scope.md R8, 42_twiddle_rom.md R69). -/
def configFor (n : Nat) : Config := ⟨n, romFor n⟩

end Sys2Proof.Machine
end

