-- ==== Sys2Proof/Machine/State.lean ====
section
/-! DEFINITION. The state of the machine (10_state.md), the host's inputs, the reasons a step can stop, and the state
after reset (10_state.md R27). -/

namespace Sys2Proof.Machine

/-- The four length registers `LEN0` to `LEN3` (10_state.md R12, R23). -/
structure Lens where
  len0 : Nat
  len1 : Nat
  len2 : Nat
  len3 : Nat
  deriving DecidableEq, Repr

/-- `LEN[b]`. -/
def Lens.get (l : Lens) (b : BufIx) : Nat :=
  match b with
  | 0 => l.len0
  | 1 => l.len1
  | 2 => l.len2
  | 3 => l.len3

/-- `LEN[b] <- n`. -/
def Lens.set (l : Lens) (b : BufIx) (n : Nat) : Lens :=
  match b with
  | 0 => { l with len0 := n }
  | 1 => { l with len1 := n }
  | 2 => { l with len2 := n }
  | 3 => { l with len3 := n }

/-- The response of a host-port transaction (20_memory.md R28). -/
inductive Resp where
  | ok
  | err
  deriving DecidableEq, Repr

/-- What the host gets back from a transaction: a response, and data for a read (20_memory.md R28). -/
inductive Answer where
  | read (resp : Resp) (data : Word)
  | write (resp : Resp)
  deriving DecidableEq, Repr

/-- An event that the host, the agent outside the block, puts to it. The first two are bare host-port transactions
(20_memory.md R28), whose response may be `ERR`; the next three are lines of a host script, which faults on `ERR`
(30_encoding.md R118, 60_exceptions.md R129); the last is the reset input (70_reset_and_hazards.md R140). -/
inductive HostOp where
  /-- `MemRead(addr, 1)`. -/
  | memRead (addr : HostAddr)
  /-- `MemWrite(addr, 1, v)`. -/
  | memWrite (addr : HostAddr) (v : Word)
  /-- `RD addr -> name`. -/
  | rd (addr : HostAddr)
  /-- `WR addr, value`. -/
  | wr (addr : HostAddr) (v : Word)
  /-- `WAIT`: "repeat RD 0x00002 until bit 0 (BUSY) reads 0". -/
  | wait
  /-- The reset input is asserted and released. -/
  | reset
  deriving DecidableEq, Repr

/-- Why a transaction is refused: the five cases of 20_memory.md R34. -/
inductive RefusedWhy where
  /-- Case 1: the address is unmapped. -/
  | unmapped
  /-- Case 2: a write to `ID` or to the twiddle ROM region. -/
  | readOnly
  /-- Case 3: a write to `LEN0..LEN3` with data greater than `NMAX`. -/
  | lenTooBig
  /-- Case 4: a write while `STATUS.BUSY = 1`. -/
  | writeBusy
  /-- Case 5: a read of `LEN0..LEN3` or of the buffer region while `STATUS.BUSY = 1`. -/
  | readBusy
  deriving DecidableEq, Repr

/-- The state of the block, the host's pending events and the model's own fields. Plain data. -/
structure State where
  /-- The configuration: `LOG2_NMAX` and `TWROM` (00_scope.md R8, 10_state.md R24). No step changes it. -/
  cfg : Config
  /-- `CTRL.IE` (10_state.md R20). -/
  ie : Bool
  /-- `STATUS.BUSY`, which is the engine phase: `IDLE` or `RUN` (10_state.md R21, R25). -/
  busy : Bool
  /-- `STATUS.DONE` (10_state.md R21). -/
  done : Bool
  /-- `STATUS.TRUNC` (10_state.md R21). -/
  trunc : Bool
  /-- `STATUS.ERR` (10_state.md R21). -/
  err : BitVec 4
  /-- `CMD`, all 64 bits; while `BUSY = 1` it is the command in flight, the `w` of `RUN(w, A)` (10_state.md R22, R25). -/
  cmd : Word
  /-- `LEN0` to `LEN3` (10_state.md R12, R23). -/
  len : Lens
  /-- `DATA[b][i]` of all four buffers (10_state.md R12). -/
  mem : Memory
  /-- The model's own: the stamp of the next use of free values (assumption logs 4 and 5). -/
  stamp : Nat
  /-- The model's own: how many host events still get in before the completion of the command in flight
  (assumption log 1). -/
  delay : Nat
  /-- The host's events, first one first (assumption log 1). -/
  pending : List HostOp
  /-- What the host port answered last (20_memory.md R28). -/
  port : Option Answer
  deriving DecidableEq, Repr

/-- Why a step stops with a fault. -/
inductive Fault where
  /-- Raised by `step` when a line `RD` or `WR` of the host's script gets `resp = ERR`: "the script faults if
  `resp = ERR`" (30_encoding.md R118), "errs toward unprovable" (60_exceptions.md R129). Safe: the block itself goes on,
  and the bare transactions `memRead` and `memWrite` model that. -/
  | scriptRefused (why : RefusedWhy)
  deriving DecidableEq, Repr

/-- Why a step is refused. No meaning of this model refuses. -/
inductive Refusal where
  /-- Raised by `exec` for an instruction that has no meaning yet; no arm of `exec` does so. Safe. -/
  | notModelled (mnemonic : String)
  deriving DecidableEq, Repr

/-- The state after reset of a block with configuration `c` (10_state.md R27): idle, every register 0, every buffer
empty, every word of `DATA` unspecified. The model's own fields start empty (assumption log 10). -/
def State.resetOf (c : Config) : State :=
  { cfg := c, ie := false, busy := false, done := false, trunc := false, err := 0, cmd := 0, len := ⟨0, 0, 0, 0⟩,
    mem := [], stamp := 0, delay := 0, pending := [], port := none }

/-- The state after reset of the block with the default configuration, `LOG2_NMAX = 10` (00_scope.md R8). -/
def State.reset : State := State.resetOf configDefault

end Sys2Proof.Machine
end

