-- ==== Sys2Proof/Machine/Flags.lean ====
section
/-! DEFINITION. The failure kinds and their codes (60_exceptions.md R120), the `STATUS` word, and the interrupt output
(60_exceptions.md R127). -/

namespace Sys2Proof.Machine

/-- "A command ends in success or in exactly one of five failure kinds" (60_exceptions.md R120). -/
inductive FailKind where
  | invalidInput
  | lengthMismatch
  | unsupported
  | capacity
  | illegalCommand
  deriving DecidableEq, Repr

/-- `code(K)`: what `STATUS.ERR` holds after a failure (60_exceptions.md R120). -/
def FailKind.code : FailKind → BitVec 4
  | .invalidInput => 1
  | .lengthMismatch => 2
  | .unsupported => 3
  | .capacity => 4
  | .illegalCommand => 5

/-- The word a read of `STATUS` returns: `{56'b0, ERR[3:0], 1'b0, TRUNC, DONE, BUSY}` (20_memory.md R30). -/
def State.statusWord (s : State) : Word :=
  (0 : BitVec 56) ++ (s.err ++ ((0 : BitVec 1) ++ (BitVec.ofBool s.trunc ++ (BitVec.ofBool s.done ++ BitVec.ofBool s.busy))))

/-- The word a read of `CTRL` returns: `zext_64(CTRL.IE)` (20_memory.md R30). -/
def State.ctrlWord (s : State) : Word := (BitVec.ofBool s.ie).setWidth 64

/-- The interrupt output, a level: `irq = CTRL.IE and STATUS.DONE` (60_exceptions.md R127). -/
def State.irq (s : State) : Bool := s.ie && s.done

end Sys2Proof.Machine
end

