-- ==== Sys2Proof/Machine/Operands.lean ====
section
/-! DEFINITION. The operand of a command: the sequence a buffer holds (10_state.md R13), captured once. -/

namespace Sys2Proof.Machine

/-- `LEN[b]`, the number of samples of `S[b]` (10_state.md R13). -/
def State.lenOf (s : State) (b : BufIx) : Nat := s.len.get b

/-- The sample `DATA[b][i]` as a use at site `p` sees it; an unspecified word is a free value there. -/
def State.sampleAt (s : State) (p : List Nat) (b : BufIx) (i : Nat) : Sample :=
  ⟨s.mem.wordAt p (dataAddr b i 0), s.mem.wordAt p (dataAddr b i 1)⟩

/-- `S[b]`: "the list `DATA[b][0], DATA[b][1], ..., DATA[b][LEN[b]-1]`" (10_state.md R13). -/
def State.seqAt (s : State) (p : List Nat) (b : BufIx) : List Sample :=
  (List.range (s.lenOf b)).map (s.sampleAt p b)

/-- The operand `S[b]` of a command: the operands are "captured in the same way" as the command word, once, at issue
(20_memory.md R39; the snapshot of 10_state.md R25), and nothing can change them before the completion. A command that
names one buffer twice has one sequence for both operands: "`a = b` squares each sample" (46_spectral_algebra.md R97,
30_encoding.md R111), also where a word of it is unspecified. -/
def State.operand (s : State) (b : BufIx) : List Sample := s.seqAt [0, s.stamp] b

end Sys2Proof.Machine
end

