-- ==== Sys2Proof/Machine/Numerics.lean ====
section
/-! DEFINITION. The primitives of 40_numerics.md: the F64 format, the one rounding, the scalar operations `fadd`, `fsub`,
`fmul`, `fneg`, and the integer helpers `IsPow2`, `NextPow2`, `Log2`.

Every finite F64 is a whole number of quanta `2^(-1074)` (the smallest subnormal), so a sum of two finite values is an
integer and a product is an integer over `2^1074`: both are computed exactly and rounded once (assumption log 9). -/

namespace Sys2Proof.Machine

/-- A place where a free value is used: the path to the operation inside the command, the step's stamp last
(assumption logs 4 and 5). -/
abbrev Site := List Nat

/-! ## The format (R40, R41) -/

/-- `s`, bit 63. -/
def signBit (x : F64) : Bool := x.msb

/-- `e`, bits 62:52, the biased exponent. -/
def expField (x : F64) : Nat := (x.extractLsb' 52 11).toNat

/-- `f`, bits 51:0, the fraction. -/
def fracField (x : F64) : Nat := (x.extractLsb' 0 52).toNat

/-- NaN: `e = 2047` and `f` not 0 (R40). -/
def isNaN (x : F64) : Bool := expField x == 2047 && fracField x != 0

/-- `+inf` or `-inf`: `e = 2047` and `f = 0` (R40). -/
def isInf (x : F64) : Bool := expField x == 2047 && fracField x == 0

/-- `+0` or `-0`: `e = 0` and `f = 0` (R40). -/
def isZero (x : F64) : Bool := expField x == 0 && fracField x == 0

/-- Finite: neither a NaN nor an infinity. -/
def isFinite (x : F64) : Bool := expField x != 2047

/-- A quiet NaN as the hardware produces it: "bits 62:51 all 1" (R47). -/
def isQuietNaN (x : F64) : Bool := x.extractLsb' 51 12 == 0xFFF

/-- `+0` (R41). -/
def posZero : F64 := 0
/-- `-0` (R41). -/
def negZero : F64 := 0x8000000000000000
/-- `1.0` (R41). -/
def fOne : F64 := 0x3FF0000000000000
/-- `-1.0` (R41). -/
def fNegOne : F64 := 0xBFF0000000000000

/-- `2^(-n) = (1023 - n) << 52` for `0 <= n <= 16` (R41). -/
def twoPowNeg (n : Nat) : F64 := BitVec.ofNat 64 ((1023 - n) * 2 ^ 52)

/-- The magnitude of a pattern without its sign bit, in quanta of `2^(-1074)` (R40): a subnormal is `f` quanta, a normal
is `(2^52 + f) * 2^(e-1)` quanta. On the pattern of infinity it gives `2^1024` in quanta, the value R42 adds to `G`. -/
def magOf (p : Nat) : Nat :=
  if p / 2 ^ 52 = 0 then p else (2 ^ 52 + p % 2 ^ 52) * 2 ^ (p / 2 ^ 52 - 1)

/-- The magnitude of an F64 in quanta of `2^(-1074)`. -/
def fmag (x : F64) : Nat := magOf (x.toNat % 2 ^ 63)

/-- The value of a finite F64 in quanta of `2^(-1074)` (R40). -/
def fval (x : F64) : Int := if signBit x then -(fmag x : Int) else (fmag x : Int)

/-! ## Rounding (R42) -/

/-- The pattern of `+inf`; as a magnitude, `2^1024`. -/
def infPattern : Nat := 2047 * 2 ^ 52

/-- Round to nearest, ties to even, with gradual underflow and overflow to infinity (R42). The exact magnitude is
`n / 2^t` quanta; the answer is the pattern of the nearest element of `G` without its sign bit. At most 53 significant
bits are kept: `g` is the number of bits below the last one kept, counted in quanta. -/
def roundMag (n t : Nat) : Nat :=
  let g := Nat.log2 (n / 2 ^ t) + 1 - 53
  let q := n / 2 ^ (t + g)
  let r := n % 2 ^ (t + g)
  let up := decide (2 ^ (t + g) < 2 * r) || (decide (2 * r = 2 ^ (t + g)) && decide (q % 2 = 1))
  min (g * 2 ^ 52 + (if up then q + 1 else q)) infPattern

/-- The F64 with sign `s` and the pattern `p` below the sign bit. -/
def withSign (s : Bool) (p : Nat) : F64 := BitVec.ofNat 64 (p + s.toNat * 2 ^ 63)

/-- `RN(x)` for a real `x` that is not 0, with sign `s` and magnitude `n / 2^t` quanta (R42). A result that rounds to
zero is the zero with the sign of `x`. -/
def RN (s : Bool) (n t : Nat) : F64 := withSign s (roundMag n t)

/-! ## Scalar operations (R43 to R47) -/

/-- A produced NaN: bits 62:51 are 1, the sign and the other fraction bits are free (R47,
93_implementation_defined.md U1). -/
def freeNaN (p : Site) : F64 := Config.freeWord p ||| 0x7FF8000000000000

/-- `fneg(x)`: bit 63 inverted, every other bit unchanged, for every pattern (R46). -/
def fneg (x : F64) : F64 := x ^^^ 0x8000000000000000

/-- `fadd(x, y)` (R43). -/
def fadd (p : Site) (x y : F64) : F64 :=
  if isNaN x || isNaN y then freeNaN p
  else if isInf x && isInf y && signBit x != signBit y then freeNaN p
  else if isInf x then x
  else if isInf y then y
  else if isZero x && isZero y then (if signBit x == signBit y then x else posZero)
  else
    let r := fval x + fval y
    if r = 0 then posZero else RN (decide (r < 0)) r.natAbs 0

/-- `fsub(x, y) = fadd(x, fneg(y))` for non-NaN `y`; a NaN if `y` is a NaN (R44). -/
def fsub (p : Site) (x y : F64) : F64 := if isNaN y then freeNaN p else fadd p x (fneg y)

/-- `fmul(x, y)` (R45). -/
def fmul (p : Site) (x y : F64) : F64 :=
  if isNaN x || isNaN y then freeNaN p
  else
    let s := signBit x != signBit y
    if (isInf x && isZero y) || (isZero x && isInf y) then freeNaN p
    else if isInf x || isInf y then withSign s infPattern
    else if isZero x || isZero y then withSign s 0
    else RN s (fmag x * fmag y) 1074

/-! ## Integer quantities (R50 to R53) -/

/-- `IsPow2(n)`: `n = 2^m` for some `m >= 0` (R51). -/
def isPow2 (n : Nat) : Bool := n == 2 ^ Nat.log2 n

/-- `NextPow2(m)` for `m >= 1`: "the smallest power of two" `P` with `P >= m` (R52). -/
def nextPow2 (m : Nat) : Nat := if m ≤ 1 then 1 else 2 ^ (Nat.log2 (m - 1) + 1)

end Sys2Proof.Machine
end

