-- ==== Sys2Proof/Machine/Complex.lean ====
section
/-! DEFINITION. Complex operations on samples (40_numerics.md R49). Each scalar operation has a site of its own, so each
NaN that one of them produces has a pattern of its own (R47). -/

namespace Sys2Proof.Machine

/-- `cadd(x, y)`: the componentwise sum (R49). -/
def cadd (p : Site) (x y : Sample) : Sample := ⟨fadd (0 :: p) x.re y.re, fadd (1 :: p) x.im y.im⟩

/-- `csub(x, y)`: the componentwise difference (R49). -/
def csub (p : Site) (x y : Sample) : Sample := ⟨fsub (0 :: p) x.re y.re, fsub (1 :: p) x.im y.im⟩

/-- `cmul(x, y)`: four multiplications and two additions, each rounded once, in this association; nothing is fused
(R49, 92_eei_decisions.md D11). -/
def cmul (p : Site) (x y : Sample) : Sample :=
  ⟨fsub (0 :: p) (fmul (1 :: p) x.re y.re) (fmul (2 :: p) x.im y.im),
   fadd (3 :: p) (fmul (4 :: p) x.re y.im) (fmul (5 :: p) x.im y.re)⟩

/-- `cconj(x)`: the real word untouched, the sign bit of the imaginary word flipped (R49). -/
def cconj (x : Sample) : Sample := ⟨x.re, fneg x.im⟩

/-- `cscale(x, n)`: both parts multiplied by `2^(-n)` (R49). -/
def cscale (p : Site) (x : Sample) (n : Nat) : Sample :=
  ⟨fmul (0 :: p) x.re (twoPowNeg n), fmul (1 :: p) x.im (twoPowNeg n)⟩

end Sys2Proof.Machine
end

