-- ==== Sys2Proof/Machine/Transform.lean ====
section
/-! DEFINITION. The twiddle ROM reads, the butterfly, the Forward and Inverse Transform by recursion (42_twiddle_rom.md,
43_butterfly.md, 44_fft_ifft.md), and the bit-reversal network with the iterative datapath (45_bit_reverse_datapath.md).
The recursion is what the commands compute; the iterative form is the structure that R91 says gives the same bits. -/

namespace Sys2Proof.Machine

/-! ## Twiddle factors and the butterfly -/

/-- `TWROM[j]` (10_state.md R24). A legal configuration has an entry for every `j < NMAX/2`, and every read of this
model is below that; past the end of a shorter image it gives `CZERO` (assumption log 16). -/
def romEntry (c : Config) (j : Nat) : Sample := c.twrom.getD j czero

/-- `Twiddle(N, k) = TWROM[k * (NMAX / N)]` (42_twiddle_rom.md R64). -/
def twiddle (c : Config) (N k : Nat) : Sample := romEntry c (k * (c.nmax / N))

/-- `Butterfly(e, o, w)`: the pair `(hi, lo)` for the indices `k` and `k + N/2` (43_butterfly.md R73). -/
def butterfly (p : Site) (e o w : Sample) : Sample × Sample :=
  let t := cmul (0 :: p) w o
  (cadd (1 :: p) e t, csub (2 :: p) e t)

/-! ## The recursion (44_fft_ifft.md R79, R82) -/

/-- `ev[m] = q[2m]` (R79). -/
def evens {α : Type} : List α → List α
  | [] => []
  | [z] => [z]
  | z :: _ :: rest => z :: evens rest

/-- `od[m] = q[2m+1]` (R79). -/
def odds {α : Type} : List α → List α
  | [] => []
  | [_] => []
  | _ :: z :: rest => z :: odds rest

/-- The butterflies of one combine step of length `N`, in order of `k` from `k` on: `Butterfly(E[k], O[k], Twiddle(N, k))`
(R79). -/
def butterflies (c : Config) (p : Site) (N : Nat) : Nat → List Sample → List Sample → List (Sample × Sample)
  | k, e :: E, o :: O => butterfly (k :: p) e o (twiddle c N k) :: butterflies c p N (k + 1) E O
  | _, _, _ => []

/-- The combine step: `out[k]` are the first parts, `out[k + N/2]` the second parts (R79). -/
def combine (c : Config) (p : Site) (N : Nat) (E O : List Sample) : List Sample :=
  let bs := butterflies c p N 0 E O
  bs.map Prod.fst ++ bs.map Prod.snd

/-- `Forward` of a sequence of length `2^n` (R79): the base case returns the input unchanged, a longer sequence is split
into its even-indexed and odd-indexed halves, each transformed, and combined. -/
def forwardAt (c : Config) : Nat → Site → List Sample → List Sample
  | 0, _, q => q
  | n + 1, p, q =>
    combine c (2 :: p) (2 ^ (n + 1)) (forwardAt c n (0 :: p) (evens q)) (forwardAt c n (1 :: p) (odds q))

/-- `Forward(q)` (R79); the recursion depth is `Log2(N)` (40_numerics.md R53). -/
def forward (c : Config) (p : Site) (q : List Sample) : List Sample := forwardAt c (Nat.log2 q.length) p q

/-- `[cscale(q[i], n) for i]`, each sample at a site of its own. -/
def scaleSeq (p : Site) (n : Nat) : Nat → List Sample → List Sample
  | _, [] => []
  | i, z :: rest => cscale (i :: p) z n :: scaleSeq p n (i + 1) rest

/-- `Inverse(q)`: conjugate, Forward, conjugate, scale by `1/N`, in this order (R81, R82). -/
def inverse (c : Config) (p : Site) (q : List Sample) : List Sample :=
  scaleSeq (1 :: p) (Nat.log2 q.length) 0 ((forward c (0 :: p) (q.map cconj)).map cconj)

/-! ## The bit-reversal network and the iterative datapath (45_bit_reverse_datapath.md) -/

/-- `BitRev(n, i) = sum over b in [0, n) of i[b] * 2^(n-1-b)` (R87), by the recursion on the lowest bit: bit 0 of `i`
goes to bit `n-1`. -/
def bitRev : Nat → Nat → Nat
  | 0, _ => 0
  | n + 1, i => i % 2 * 2 ^ n + bitRev n (i / 2)

/-- The `bit_reverse_network`: `a[i] <- q[BitRev(n, i)]` for `i` in `[0, 2^n)` (R89). -/
def bitReversePermute (n : Nat) (q : List Sample) : List Sample :=
  (List.range (2 ^ n)).map (fun i => q.getD (bitRev n i) czero)

/-- What stage `s` leaves at index `i` of the working array `a`: with `m = 2^s`, the block start `j = i - i mod m` and
`k = i mod (m/2)`, the first or the second part of `Butterfly(a[j+k], a[j+k+m/2], Twiddle(m, k))` (R89). -/
def stageAt (c : Config) (p : Site) (s : Nat) (a : List Sample) (i : Nat) : Sample :=
  let m := 2 ^ s
  let h := m / 2
  let j := i - i % m
  let k := i % h
  let b := butterfly (k :: j :: s :: p) (a.getD (j + k) czero) (a.getD (j + k + h) czero) (twiddle c m k)
  if i % m < h then b.1 else b.2

/-- Stage `s` of the datapath: `N/2` butterflies, each on two locations of its own (R89, R92). -/
def stage (c : Config) (p : Site) (s : Nat) (a : List Sample) : List Sample :=
  (List.range a.length).map (stageAt c p s a)

/-- Stages `1 .. s`, in order (R89). -/
def stages (c : Config) (p : Site) : Nat → List Sample → List Sample
  | 0, a => a
  | s + 1, a => stage c p (s + 1) (stages c p s a)

/-- `ForwardIter(q)` (R89): the network, then `Log2(N)` stages. -/
def forwardIter (c : Config) (p : Site) (q : List Sample) : List Sample :=
  stages c p (Nat.log2 q.length) (bitReversePermute (Nat.log2 q.length) q)

end Sys2Proof.Machine
end

