-- ==== Sys2Proof/Machine/Ops.lean ====
section
/-! DEFINITION. The shared operations on the state: issuing a command, the two completions of a command (a failed one is
this hardware's exception: "the hardware's trap is the failed completion of a command", 60_exceptions.md), and the
reset. There is no return from an exception (60_exceptions.md R134). -/

namespace Sys2Proof.Machine

/-- The outcome of a step of this machine. -/
abbrev Out := Host.Outcome State Fault Refusal

/-- What `Exec_...` ends in: the result sequence with the truncation bit, or the kind it raises (60_exceptions.md
R139). -/
abbrev CmdResult := Except FailKind (List Sample × Bool)

/-- ISSUE: what an accepted write of `v` to `CMD` does (20_memory.md R31). How many host events get in before the
completion is free (assumption log 1). -/
def State.issue (s : State) (v : Word) : State :=
  { s with cmd := v, busy := true, done := false, trunc := false, err := 0, delay := Config.freeDelay s.stamp }

/-- The state with the value `v` in `CMD`, issued, and its completion due at the very next step: what a `CMD` write
leaves when no host event gets in before the completion. -/
def State.issueNow (s : State) (v : Word) : State := { s.issue v with delay := 0 }

/-- Successful completion with destination `d`, result `q` and truncation bit `t`, in one step (60_exceptions.md R131). -/
def State.succeed (s : State) (d : BufIx) (q : List Sample) (t : Bool) : State :=
  { s with
    len := s.len.set d q.length, mem := s.mem.storeSeq d q
    err := 0, trunc := t, done := true, busy := false, stamp := s.stamp + 1 }

/-- Failed completion with kind `k`: the code, `DONE`, and nothing else; no `LEN` and no `DATA` word changes
(60_exceptions.md R132). This is how every exception of this hardware is taken. -/
def State.failWith (s : State) (k : FailKind) : State :=
  { s with err := k.code, trunc := false, done := true, busy := false, stamp := s.stamp + 1 }

/-- `Complete`: a result is written to destination `d`, a raised kind is recorded (60_exceptions.md R130). -/
def complete (d : BufIx) (r : CmdResult) (s : State) : Out :=
  match r with
  | .ok (q, t) => .next (s.succeed d q t)
  | .error k => .next (s.failWith k)

/-- Reset (70_reset_and_hazards.md R140, R141): every register and buffer as 10_state.md R27 says, whatever was in
flight. The configuration stays, and so do the host's later events and the last answer of the port; the stamp moves on,
so that no free value from before the reset is used again. -/
def State.doReset (s : State) : State :=
  { State.resetOf s.cfg with stamp := s.stamp + 1, pending := s.pending, port := s.port }

end Sys2Proof.Machine
end

