-- ==== Sys2Proof/Machine/Pad.lean ====
section
/-! DEFINITION. The Sizer/Padder and the command `PAD` (41_pad.md). -/

namespace Sys2Proof.Machine

/-- `PadLen(n, m) = NextPow2(2 * max(n, m))` (R57). -/
def padLen (n m : Nat) : Nat := nextPow2 (2 * max n m)

/-- `Pad(q, m) = q ++ [CZERO]^(P - len(q))` with `P = PadLen(len(q), m)` (R58). -/
def padSeq (q : List Sample) (m : Nat) : List Sample := q ++ List.replicate (padLen q.length m - q.length) czero

/-- `PadChecked(q, m)`: `Unsupported` for an empty sequence, `Capacity` for a padded length above `NMAX`
(47_convolution_correlation.md R100; 41_pad.md R60 to R62). -/
def padChecked (c : Config) (q : List Sample) (m : Nat) : Except FailKind (List Sample) :=
  if q.length = 0 then .error .unsupported
  else if c.nmax < padLen q.length m then .error .capacity
  else .ok (padSeq q m)

/-- `PAD Sd, Sa, #m` (R60). -/
def execPad (d a : BufIx) (m : Nat) (s : State) : Out :=
  complete d ((padChecked s.cfg (s.operand a) m).map (fun q => (q, false))) s

end Sys2Proof.Machine
end

