-- ==== Sys2Proof/Machine/Spectral.lean ====
section
/-! DEFINITION. Elementwise spectral algebra: the commands `MUL` and `CONJ` (46_spectral_algebra.md). -/

namespace Sys2Proof.Machine

/-- The products `cmul(A[i], B[i])` from index `i` on, as far as both operands reach; each lane has a site of its own. -/
def mulLanes (p : Site) : Nat → List Sample → List Sample → List Sample
  | i, x :: A, y :: B => cmul (i :: p) x y :: mulLanes p (i + 1) A B
  | _, _, _ => []

/-- `MultiplySeq(A, B, n) = [ cmul(A[i], B[i]) for i in [0, n) ]` (R94). -/
def multiplySeq (p : Site) (A B : List Sample) (n : Nat) : List Sample := mulLanes p 0 (A.take n) (B.take n)

/-- `Multiply(A, B, l)`: equal lengths multiply; unequal lengths raise `LengthMismatch` under the strict policy and are
truncated to the shorter length, with the diagnostic, under the lenient one (R95, R96). -/
def multiply (p : Site) (A B : List Sample) (l : Bool) : CmdResult :=
  if A.length = B.length then .ok (multiplySeq p A B A.length, false)
  else if l = false then .error .lengthMismatch
  else .ok (multiplySeq p A B (min A.length B.length), true)

/-- A source of `MUL` or `CONJ`: any non-zero length (R97, R98). -/
def nonEmptyChecked (q : List Sample) : Except FailKind (List Sample) :=
  if q.length = 0 then .error .unsupported else .ok q

/-- The result of `Exec_MUL`: first source tested first, then the second, then the lengths against each other (R97). -/
def mulResult (s : State) (a b : BufIx) (l : Bool) : CmdResult := do
  let A ← nonEmptyChecked (s.operand a)
  let B ← nonEmptyChecked (s.operand b)
  multiply [2, s.stamp] A B l

/-- `MUL Sd, Sa, Sb` and `MUL.L Sd, Sa, Sb`: elementwise complex product (R97). -/
def execMul (d a b : BufIx) (l : Bool) (s : State) : Out := complete d (mulResult s a b l) s

/-- `Conjugate(A) = [ cconj(A[i]) ]` (R98). -/
def conjugate (A : List Sample) : List Sample := A.map cconj

/-- `CONJ Sd, Sa`: elementwise complex conjugate (R98). -/
def execConj (d a : BufIx) (s : State) : Out :=
  complete d ((nonEmptyChecked (s.operand a)).map (fun q => (conjugate q, false))) s

end Sys2Proof.Machine
end

