-- ==== Sys2Proof/Machine/Compose.lean ====
section
/-! DEFINITION. The compositions: the commands `CONV`, `CONVIR` and `XCORR` (47_convolution_correlation.md). The padded
operands, their spectra and the product are scratch, never state (R100). -/

namespace Sys2Proof.Machine

/-- The common tail of the three compositions: `Multiply` the spectra under the policy `l`, then `Inverse` (R100). -/
def multiplyInverse (c : Config) (stamp : Nat) (FX FY : List Sample) (l : Bool) : CmdResult := do
  let (C, t) ← multiply [4, stamp] FX FY l
  return (inverse c [5, stamp] C, t)

/-- The result of `Exec_CONV`: each operand padded by its own length (R101). -/
def convResult (s : State) (a b : BufIx) (l : Bool) : CmdResult := do
  let PX ← padChecked s.cfg (s.operand a) 0
  let PY ← padChecked s.cfg (s.operand b) 0
  multiplyInverse s.cfg s.stamp (forward s.cfg [2, s.stamp] PX) (forward s.cfg [3, s.stamp] PY) l

/-- `CONV Sd, Sa, Sb` and `CONV.L Sd, Sa, Sb`: convolution, equal treatment (R101). -/
def execConv (d a b : BufIx) (l : Bool) (s : State) : Out := complete d (convResult s a b l) s

/-- The result of `Exec_CONVIR`: both operands padded with the shared `M = max(LEN[a], LEN[b])` (R103). -/
def convirResult (s : State) (a b : BufIx) (l : Bool) : CmdResult := do
  let M := max (s.lenOf a) (s.lenOf b)
  let PX ← padChecked s.cfg (s.operand a) M
  let PY ← padChecked s.cfg (s.operand b) M
  multiplyInverse s.cfg s.stamp (forward s.cfg [2, s.stamp] PX) (forward s.cfg [3, s.stamp] PY) l

/-- `CONVIR Sd, Sa, Sb`: convolution with an impulse response; `L` is accepted and has no effect (R103). -/
def execConvir (d a b : BufIx) (l : Bool) (s : State) : Out := complete d (convirResult s a b l) s

/-- The result of `Exec_XCORR`: as `CONV`, with the conjugate of the second spectrum (R105, R106). -/
def xcorrResult (s : State) (a b : BufIx) (l : Bool) : CmdResult := do
  let PX ← padChecked s.cfg (s.operand a) 0
  let PY ← padChecked s.cfg (s.operand b) 0
  multiplyInverse s.cfg s.stamp (forward s.cfg [2, s.stamp] PX) (conjugate (forward s.cfg [3, s.stamp] PY)) l

/-- `XCORR Sd, Sa, Sb` and `XCORR.L Sd, Sa, Sb`: cross-correlation (R105). -/
def execXcorr (d a b : BufIx) (l : Bool) (s : State) : Out := complete d (xcorrResult s a b l) s

end Sys2Proof.Machine
end

