-- ==== Sys2Proof/Machine/Fft.lean ====
section
/-! DEFINITION. The commands `FFT` and `IFFT` (44_fft_ifft.md). -/

namespace Sys2Proof.Machine

/-- The tests of a transform on its source: `Unsupported` for length 0, then `InvalidInput` for a length that is no power
of two (R80, R83; 60_exceptions.md R126). -/
def transformChecked (q : List Sample) : Except FailKind (List Sample) :=
  if q.length = 0 then .error .unsupported
  else if isPow2 q.length then .ok q
  else .error .invalidInput

/-- `FFT Sd, Sa`: time to frequency (R80). -/
def execFft (d a : BufIx) (s : State) : Out :=
  complete d ((transformChecked (s.operand a)).map (fun q => (forward s.cfg [2, s.stamp] q, false))) s

/-- `IFFT Sd, Sa`: frequency to time (R83). -/
def execIfft (d a : BufIx) (s : State) : Out :=
  complete d ((transformChecked (s.operand a)).map (fun q => (inverse s.cfg [2, s.stamp] q, false))) s

end Sys2Proof.Machine
end

