-- ==== Sys2Proof/Machine/Dispatch.lean ====
section
/-! DEFINITION. `Exec`: one arm per command (60_exceptions.md R139). -/

namespace Sys2Proof.Machine

/-- The completion of a decoded command: one call of its meaning (60_exceptions.md R139). -/
def exec (i : Instr) (s : State) : Host.Outcome State Fault Refusal :=
  match i with
  | .pad d a m => Sys2Proof.Machine.execPad d a m s
  | .fft d a => Sys2Proof.Machine.execFft d a s
  | .ifft d a => Sys2Proof.Machine.execIfft d a s
  | .mul d a b l => Sys2Proof.Machine.execMul d a b l s
  | .conj d a => Sys2Proof.Machine.execConj d a s
  | .conv d a b l => Sys2Proof.Machine.execConv d a b l s
  | .convir d a b l => Sys2Proof.Machine.execConvir d a b l s
  | .xcorr d a b l => Sys2Proof.Machine.execXcorr d a b l s

end Sys2Proof.Machine
end

