-- ==== Sys2Proof/Machine/Engine.lean ====
section
/-! DEFINITION. The engine's one kind of step: the completion of the command in flight (60_exceptions.md R130). -/

namespace Sys2Proof.Machine

/-- The command in flight: `Decode(v)` of the value in `CMD` (60_exceptions.md R130; 20_memory.md R39: the word is
captured by the `CMD` write, and nothing can change it before the completion). -/
def State.inFlight (s : State) : Decoded := decode s.cmd

/-- `Complete`: the command's completion, or `Fail(IllegalCommand)` for a value that is no command (60_exceptions.md
R124, R130, R139). -/
def engineStep (s : State) : Out :=
  match s.inFlight with
  | .command i => exec i s
  | .illegal _ => .next (s.failWith .illegalCommand)

/-- Whether the engine moves next: a command is in flight, and no host event is left to get in before its completion
(60_exceptions.md R130, assumption log 1). -/
def engineTurn (s : State) : Bool := s.busy && (s.delay == 0 || s.pending.isEmpty)

end Sys2Proof.Machine
end

