-- ==== Sys2Proof/Machine/HostPort.lean ====
section
/-! DEFINITION. The host port: the address map (20_memory.md R29), reads and writes by region (R30 to R33), the refused
transactions (R34), and one host event as a step of the host (R37; 30_encoding.md R118). -/

namespace Sys2Proof.Machine

/-- What stands at a word address (20_memory.md R29). `im` is address bit 0: real (`false`) or imaginary (`true`). -/
inductive Target where
  | id
  | ctrl
  | status
  | cmd
  | len (b : BufIx)
  | rom (j : Nat) (im : Bool)
  | data (addr : Nat)
  | unmapped
  deriving DecidableEq, Repr

/-- The eight registers at the word addresses 0 to 7 (10_state.md R18). -/
def regTarget (a : Nat) : Target :=
  match a with
  | 0 => .id
  | 1 => .ctrl
  | 2 => .status
  | 3 => .cmd
  | 4 => .len 0
  | 5 => .len 1
  | 6 => .len 2
  | _ => .len 3

/-- The address map by number; what is populated depends on `NMAX` (20_memory.md R29). -/
def targetAt (c : Config) (a : Nat) : Target :=
  if a < 8 then regTarget a
  else if a < 0x40000 then .unmapped
  else if a < 0x80000 then
    if (a - 0x40000) / 2 < c.nmax / 2 then .rom ((a - 0x40000) / 2) (decide (a % 2 = 1)) else .unmapped
  else if populatedData c a then .data a else .unmapped

/-- The address map (20_memory.md R29). -/
def target (c : Config) (addr : HostAddr) : Target := targetAt c addr.toNat

/-- The value of `ID` (10_state.md R19): `MAGIC`, `SPECVER`, `NBUF`, `LOG2_NMAX`. -/
def idWord (c : Config) : Word :=
  (0x53445350 : BitVec 32) ++ ((0x0007 : BitVec 16) ++ ((0x04 : BitVec 8) ++ BitVec.ofNat 8 c.log2Nmax))

/-- One part of a ROM entry (20_memory.md R33). -/
def romWord (c : Config) (j : Nat) (im : Bool) : Word := if im then (romEntry c j).im else (romEntry c j).re

/-- Whether a read is refused, and why (20_memory.md R34, cases 1 and 5). -/
def refusedRead (s : State) (addr : HostAddr) : Option RefusedWhy :=
  match target s.cfg addr with
  | .unmapped => some .unmapped
  | .len _ => if s.busy then some .readBusy else none
  | .data _ => if s.busy then some .readBusy else none
  | .id => none
  | .ctrl => none
  | .status => none
  | .cmd => none
  | .rom _ _ => none

/-- Whether a write is refused, and why (20_memory.md R34, cases 1 to 4). Where several cases hold the name is the first
in the order 1, 2, 4, 3; the response is the same (assumption log 17). -/
def refusedWrite (s : State) (addr : HostAddr) (v : Word) : Option RefusedWhy :=
  match target s.cfg addr with
  | .unmapped => some .unmapped
  | .id => some .readOnly
  | .rom _ _ => some .readOnly
  | .len _ => if s.busy then some .writeBusy else if s.cfg.nmax < v.toNat then some .lenTooBig else none
  | .ctrl => if s.busy then some .writeBusy else none
  | .status => if s.busy then some .writeBusy else none
  | .cmd => if s.busy then some .writeBusy else none
  | .data _ => if s.busy then some .writeBusy else none

/-- The data of a refused read: any value (20_memory.md R28, 93_implementation_defined.md U4). -/
def refusedData (s : State) : Word := Config.freeWord [1, s.stamp]

/-- The data of an accepted read (20_memory.md R30, R32, R33). A read of an unspecified word gives a free value, another
one at each read (10_state.md R15). -/
def readData (s : State) (addr : HostAddr) : Word :=
  match target s.cfg addr with
  | .id => idWord s.cfg
  | .ctrl => s.ctrlWord
  | .status => s.statusWord
  | .cmd => s.cmd
  | .len b => BitVec.ofNat 64 (s.lenOf b)
  | .rom j im => romWord s.cfg j im
  | .data a => s.mem.wordAt [0, s.stamp] a
  | .unmapped => refusedData s

/-- `MemRead(addr, 1) = (resp, data)` (20_memory.md R28). No read has a side effect (R36). -/
def memRead (s : State) (addr : HostAddr) : Resp × Word :=
  match refusedRead s addr with
  | none => (.ok, readData s addr)
  | some _ => (.err, refusedData s)

/-- The effect of an accepted write (20_memory.md R31, R32). DESIGN CHOICE (assumption log 12): a write to `LENb` changes no
word of `DATA[b]`, so a word of a command's result that the host puts outside the sequence by lowering `LEN[b]`, and back
into it by raising `LEN[b]` again, is still the command's word; 10_state.md R15 can also be read as leaving it
unspecified. -/
def applyWrite (s : State) (addr : HostAddr) (v : Word) : State :=
  match target s.cfg addr with
  | .ctrl => { s with ie := v.getLsbD 0 }
  | .status => { s with done := s.done && !v.getLsbD 1 }
  | .cmd => s.issue v
  | .len b => { s with len := s.len.set b v.toNat }
  | .data a => { s with mem := s.mem.write a v }
  | .id => s
  | .rom _ _ => s
  | .unmapped => s

/-- `MemWrite(addr, 1, v)`: the response and the state after (20_memory.md R28); a refused write changes no state
(R34). -/
def memWrite (s : State) (addr : HostAddr) (v : Word) : Resp × State :=
  match refusedWrite s addr v with
  | none => (.ok, applyWrite s addr v)
  | some _ => (.err, s)

/-- The port's answer stands in the state, and the stamp moves on past the transaction. -/
def State.answered (s : State) (ans : Answer) : State := { s with port := some ans, stamp := s.stamp + 1 }

/-- A read transaction as a step of the host. -/
def hostRead (s : State) (addr : HostAddr) : State :=
  s.answered (.read (memRead s addr).1 (memRead s addr).2)

/-- A write transaction as a step of the host. -/
def hostWrite (s : State) (addr : HostAddr) (v : Word) : State :=
  (memWrite s addr v).2.answered (.write (memWrite s addr v).1)

/-- The word address of `CMD` (20_memory.md R29). -/
def addrCmd : HostAddr := 0x00003
/-- The word address of `STATUS` (20_memory.md R29). -/
def addrStatus : HostAddr := 0x00002
/-- The word address of `LENb` (20_memory.md R29). -/
def addrLen (b : BufIx) : HostAddr := BitVec.ofNat 20 (4 + b.val)
/-- The word address of `Sb[i].re` or `Sb[i].im` (20_memory.md R29). -/
def addrData (b : BufIx) (i c : Nat) : HostAddr := BitVec.ofNat 20 (dataAddr b i c)

/-- One event of the host, taken off the list of its pending events (20_memory.md R37; 30_encoding.md R118). A `WAIT`
stays pending until a poll of `STATUS` reads `BUSY = 0`. -/
def hostStep (op : HostOp) (rest : List HostOp) (s : State) : Out :=
  let s' := { s with pending := rest, delay := s.delay - 1 }
  match op with
  | .memRead addr => .next (hostRead s' addr)
  | .memWrite addr v => .next (hostWrite s' addr v)
  | .rd addr =>
    match refusedRead s addr with
    | none => .next (hostRead s' addr)
    | some why => .fault (.scriptRefused why)
  | .wr addr v =>
    match refusedWrite s addr v with
    | none => .next (hostWrite s' addr v)
    | some why => .fault (.scriptRefused why)
  | .wait =>
    if s.busy then .next { hostRead s' addrStatus with pending := .wait :: rest }
    else .next (hostRead s' addrStatus)
  | .reset => .next s'.doReset

end Sys2Proof.Machine
end

