-- ==== Sys2Proof/Machine/Step.lean ====
section
/-! DEFINITION. One step of the machine: the total order of the steps of the two agents (20_memory.md R37). -/

namespace Sys2Proof.Machine

/-- One step: the engine completes the command in flight when its turn has come; otherwise the host's next event takes
place; with the engine idle and no event pending nothing happens (assumption logs 1 and 2). -/
def step (s : State) : Host.Outcome State Fault Refusal :=
  if engineTurn s then engineStep s
  else
    match s.pending with
    | [] => .next s
    | op :: rest => hostStep op rest s

/-- The state in which the opcode-table word `w` of `nbits` bits has been written to `CMD`, zero-extended, and the next
step completes it (20_memory.md R31, 30_encoding.md R108; assumption logs 2 and 14). -/
def State.withFetchWord (s : State) (nbits w : Nat) : State := s.issueNow (BitVec.ofNat 64 (w % 2 ^ nbits))

end Sys2Proof.Machine
end

