-- ==== Sys2Proof/Machine/Script.lean ====
section
/-! DEFINITION. Host scripts: the symbolic addresses and the two pseudo-instructions `RUN` and `LOAD` (30_encoding.md R118,
R119). -/

namespace Sys2Proof.Machine

/-- `WR CMD, <encoding of command>` (30_encoding.md R118). -/
def scriptIssue (i : Instr) : HostOp := .wr addrCmd (encode i)

/-- `RUN <command> = WR CMD, <encoding of command> ; WAIT` (30_encoding.md R119). -/
def scriptRun (i : Instr) : List HostOp := [scriptIssue i, .wait]

/-- `WR Sb[i].re, z.re ; WR Sb[i].im, z.im` for the samples from index `i` on (30_encoding.md R119). -/
def scriptSamples (b : BufIx) : Nat → List Sample → List HostOp
  | _, [] => []
  | i, z :: q => .wr (addrData b i 0) z.re :: .wr (addrData b i 1) z.im :: scriptSamples b (i + 1) q

/-- `LOAD Sb, [z0, z1, ...]`: the samples, then `WR LENb, n` (30_encoding.md R119). -/
def scriptLoad (b : BufIx) (q : List Sample) : List HostOp :=
  scriptSamples b 0 q ++ [.wr (addrLen b) (BitVec.ofNat 64 q.length)]

/-- The sample a real number stands for in a `LOAD` list: imaginary part `+0` (30_encoding.md R119, 10_state.md R11). -/
def realSample (r : F64) : Sample := ⟨r, posZero⟩

end Sys2Proof.Machine
end

