-- ==== Sys2Proof/Safety.lean ====
section
/-! DEFINITION. The terms claims are made in: the invariant of the machine, what a buffer holds, the two ways a command
ends with everything it leaves alone, equality up to the pattern of NaNs, mapped addresses, and the end of a run. -/

namespace Sys2Proof.Machine

/-! ## The invariant -/

/-- What holds in every state the block can be in: a legal configuration; memory in canonical form; `LEN[b] <= NMAX`
(10_state.md R12); "`BUSY = 1` and `DONE = 1` never hold together" and "`TRUNC = 1` implies `ERR = 0`" (10_state.md R21);
codes 6 to 15 never produced (60_exceptions.md R120); `TRUNC` and `ERR` clear while a command is in flight (20_memory.md
R31). -/
structure State.Inv (s : State) : Prop where
  cfg_wf : s.cfg.wf = true
  mem_wf : s.mem.wf s.cfg = true
  len_le : ∀ b : BufIx, s.lenOf b ≤ s.cfg.nmax
  not_busy_done : ¬ (s.busy = true ∧ s.done = true)
  trunc_ok : s.trunc = true → s.err = 0
  err_le : s.err.toNat ≤ 5
  busy_clear : s.busy = true → s.trunc = false ∧ s.err = 0

/-! ## What a buffer holds -/

/-- Buffer `b` holds exactly the sequence `q`, every word of it specified (10_state.md R13). -/
structure State.Holds (s : State) (b : BufIx) (q : List Sample) : Prop where
  len_eq : s.lenOf b = q.length
  re_eq : ∀ i z, q[i]? = some z → s.mem.read (dataAddr b i 0) = some z.re
  im_eq : ∀ i z, q[i]? = some z → s.mem.read (dataAddr b i 1) = some z.im

/-- The sequence `q` is one that `S[b]` may be: it has the buffer's length and agrees with every word that is specified;
an unspecified word may be anything (10_state.md R13, R15). A buffer that holds `q` may be `q` only. -/
structure State.MayHold (s : State) (b : BufIx) (q : List Sample) : Prop where
  len_eq : q.length = s.lenOf b
  re_eq : ∀ i z v, q[i]? = some z → s.mem.read (dataAddr b i 0) = some v → z.re = v
  im_eq : ∀ i z v, q[i]? = some z → s.mem.read (dataAddr b i 1) = some v → z.im = v

/-- Every word of `DATA[b][i]` from sample `n` up to the capacity is unspecified (10_state.md R15). -/
def State.TailUnspecified (s : State) (b : BufIx) (n : Nat) : Prop :=
  ∀ i, n ≤ i → i < s.cfg.nmax → s.mem.read (dataAddr b i 0) = none ∧ s.mem.read (dataAddr b i 1) = none

/-! ## How a command ends -/

/-- Nothing outside the engine's outcome and buffer `d` differs between `s` and `t`: the configuration, `CTRL`, `CMD`, the
lengths and the words of every other buffer, the host's events and the port's last answer. -/
structure OnlyBufferChanged (d : BufIx) (s t : State) : Prop where
  cfg_eq : t.cfg = s.cfg
  ie_eq : t.ie = s.ie
  cmd_eq : t.cmd = s.cmd
  len_eq : ∀ b, b ≠ d → t.lenOf b = s.lenOf b
  mem_eq : ∀ a, inBuffer d a = false → t.mem.read a = s.mem.read a
  pending_eq : t.pending = s.pending
  port_eq : t.port = s.port

/-- No buffer at all differs, the destination included, and no register but `STATUS`. -/
structure NoBufferChanged (s t : State) : Prop where
  cfg_eq : t.cfg = s.cfg
  ie_eq : t.ie = s.ie
  cmd_eq : t.cmd = s.cmd
  len_eq : ∀ b, t.lenOf b = s.lenOf b
  mem_eq : ∀ a, t.mem.read a = s.mem.read a
  pending_eq : t.pending = s.pending
  port_eq : t.port = s.port

/-- `STATUS` after a completion: `BUSY = 0`, `DONE = 1`, `ERR` and `TRUNC` as given (60_exceptions.md R131, R132). -/
structure State.Completed (s : State) (err : BitVec 4) (trunc : Bool) : Prop where
  busy_eq : s.busy = false
  done_eq : s.done = true
  err_eq : s.err = err
  trunc_eq : s.trunc = trunc

/-- The completion of `i` in `s` succeeds with the result `q` and the truncation bit `t`: the next state holds `q` in the
destination, the rest of that buffer is unspecified, `STATUS` reports the success, and nothing else changes
(60_exceptions.md R131). -/
def Succeeds (i : Instr) (s : State) (q : List Sample) (t : Bool) : Prop :=
  ∃ s', exec i s = .next s' ∧ s'.Holds i.dest q ∧ s'.TailUnspecified i.dest q.length ∧ s'.Completed 0 t
    ∧ OnlyBufferChanged i.dest s s'

/-- The completion of `i` in `s` fails with kind `k`: the next state reports the code, and no buffer and no other register
changes (60_exceptions.md R132). -/
def Fails (i : Instr) (s : State) (k : FailKind) : Prop :=
  ∃ s', exec i s = .next s' ∧ s'.Completed k.code false ∧ NoBufferChanged s s'

/-- The kinds a command can raise, `IllegalCommand` apart, which belongs to no command (60_exceptions.md R120, last
column). -/
def mayRaise (i : Instr) : List FailKind :=
  match i with
  | .pad _ _ _ => [.unsupported, .capacity]
  | .fft _ _ => [.unsupported, .invalidInput]
  | .ifft _ _ => [.unsupported, .invalidInput]
  | .mul _ _ _ _ => [.unsupported, .lengthMismatch]
  | .conj _ _ => [.unsupported]
  | .conv _ _ _ _ => [.unsupported, .capacity, .lengthMismatch]
  | .convir _ _ _ _ => [.unsupported, .capacity]
  | .xcorr _ _ _ _ => [.unsupported, .capacity, .lengthMismatch]

/-- The values written to `CMD` that are no command, field by field: "non-zero upper half, reserved opcode, non-zero reserved
field, or a non-zero field the opcode does not use" (60_exceptions.md R124). -/
def IllegalValue (v : Word) : Prop :=
  field v 32 32 ≠ 0
    ∨ field v 28 4 = 0 ∨ 9 ≤ field v 28 4
    ∨ field v 16 5 ≠ 0
    ∨ ((field v 28 4 = 1 ∨ field v 28 4 = 2 ∨ field v 28 4 = 3 ∨ field v 28 4 = 5) ∧ field v 21 3 ≠ 0)
    ∨ (field v 28 4 ≠ 1 ∧ field v 0 16 ≠ 0)

/-- `C` is a pointwise complex product of `A` and `B` over the shorter length: lane `i` is `cmul(A[i], B[i])`
(46_spectral_algebra.md R94, R96). -/
structure IsProduct (A B C : List Sample) : Prop where
  length_eq : C.length = min A.length B.length
  lane : ∀ (i : Nat) (x y : Sample), A[i]? = some x → B[i]? = some y → ∃ p : Site, C[i]? = some (cmul p x y)

/-! ## Equality up to the pattern of NaNs -/

/-- The same word, or two NaNs (93_implementation_defined.md U1: "every equality between two ways of computing a result
is stated up to this"). -/
def SameWord (x y : F64) : Prop := x = y ∨ (isNaN x = true ∧ isNaN y = true)

/-- Both parts the same up to NaN patterns. -/
structure SameSample (x y : Sample) : Prop where
  re : SameWord x.re y.re
  im : SameWord x.im y.im

/-- Sequences of one length whose samples are the same up to NaN patterns. -/
def SameSeq (q r : List Sample) : Prop := List.Forall₂ SameSample q r

/-! ## The address map, in arithmetic -/

/-- The word addresses that 20_memory.md R29 maps, for a block of configuration `c`. -/
def Mapped (c : Config) (a : Nat) : Prop :=
  a ≤ 7
    ∨ (∃ j, j < c.nmax / 2 ∧ (a = 0x40000 + 2 * j ∨ a = 0x40000 + 2 * j + 1))
    ∨ (∃ (b : BufIx) (i : Nat), i < c.nmax ∧ (a = dataAddr b i 0 ∨ a = dataAddr b i 1))

/-! ## Runs -/

/-- "It is over when the script has performed its last transaction and the engine is `IDLE`" (70_reset_and_hazards.md
R153). -/
def State.runOver (s : State) : Bool := s.pending.isEmpty && !s.busy

/-- Run commands one after another, each to its completion, and stop at the first that fails: what a host does that reads
`STATUS` between commands (70_reset_and_hazards.md R144, R145; 47_convolution_correlation.md R107). -/
def runChain : List Instr → State → Out
  | [], s => .next s
  | i :: rest, s =>
    match exec i s with
    | .next s' => if s'.err = 0 then runChain rest s' else .next s'
    | .fault f => .fault f
    | .refused r => .refused r

end Sys2Proof.Machine
end

