-- ==== Sys2Proof/Certificates/Slice0/Obligations.lean ====
section
/-! DEFINITION. The statements for the provers, one `Prop` each, from the numbered rules of the spec. -/

open Sys2Proof Sys2Proof.Machine

/-! ## Encoding -/

/-- R115, R117: the decoder gives back every well-formed command from its encoding, every operand at every value. -/
def Obligations.DecodeOfEncodeIsTheCommand : Prop :=
  ∀ i : Instr, i.wellFormed = true → decode (encode i) = .command i

/-- R115, R116: a value that decodes to a command is that command's one encoding, all 64 bits of it. -/
def Obligations.CommandHasOneEncoding : Prop :=
  ∀ (v : Word) (i : Instr), decode v = .command i → i.wellFormed = true ∧ encode i = v

/-- R114: for each opcode the legal words are those with `w and mask = match` and a zero upper half, and no word is legal
for two opcodes. -/
def Obligations.LegalWordsMatchMaskTable : Prop :=
  (∀ (v : Word) (opc : Nat) (mask pat : BitVec 32),
    (opc, mask, pat) ∈ ([(1, 0xF0FF0000, 0x10000000), (2, 0xF0FFFFFF, 0x20000000), (3, 0xF0FFFFFF, 0x30000000),
        (4, 0xF01FFFFF, 0x40000000), (5, 0xF0FFFFFF, 0x50000000), (6, 0xF01FFFFF, 0x60000000),
        (7, 0xF01FFFFF, 0x70000000), (8, 0xF01FFFFF, 0x80000000)] : List (Nat × BitVec 32 × BitVec 32)) →
      ((∃ i, decode v = .command i ∧ i.opcode = opc)
        ↔ v.extractLsb' 32 32 = 0 ∧ v.extractLsb' 0 32 &&& mask = pat))
  ∧ (∀ (v : Word) (i : Instr), decode v = .command i → 1 ≤ i.opcode ∧ i.opcode ≤ 8)
  ∧ (∀ (w : BitVec 32) (r r' : OpRow), r ∈ opRows → r' ∈ opRows → w &&& r.mask = r.pattern → w &&& r'.mask = r'.pattern → r = r')

/-- 95_test_vectors.md V16: words written out from the encoding table decode to the commands they stand for. -/
def Obligations.TableWordsDecode : Prop :=
  decodeTableWord 32 0x1D000004 = some (.pad 3 1 4)
  ∧ decodeTableWord 32 0x2F000000 = some (.fft 3 3)
  ∧ decodeTableWord 32 0x39000000 = some (.ifft 2 1)
  ∧ decodeTableWord 32 0x48600000 = some (.mul 2 0 1 true)
  ∧ decodeTableWord 32 0x54000000 = some (.conj 1 0)
  ∧ decodeTableWord 32 0x68400000 = some (.conv 2 0 1 false)
  ∧ decodeTableWord 32 0x78400000 = some (.convir 2 0 1 false)
  ∧ decodeTableWord 32 0x8DA00000 = some (.xcorr 3 1 2 true)
  ∧ decodeTableWord 32 0x90000000 = none

/-! ## The step, the invariant and reset -/

/-- R130, R139: when the engine's turn has come and the value in `CMD` decodes to `i`, the step is `exec i` at that state;
in particular a command placed with its completion due at once is run by the very next step. When the engine's turn comes is
the model's choice (assumption logs 1 and 2). -/
def Obligations.StepRunsTheCommandInFlight : Prop :=
  (∀ (s : State) (i : Instr), s.busy = true → (s.delay = 0 ∨ s.pending = []) → decode s.cmd = .command i →
    step s = exec i s)
  ∧ (∀ (s : State) (nbits w : Nat) (i : Instr), decodeTableWord nbits w = some i →
    step (s.withFetchWord nbits w) = exec i (s.withFetchWord nbits w))

/-- R124, R132: a value with a non-zero upper half, a reserved opcode, a non-zero reserved field or a non-zero unused field
fails at completion with code 5, whatever the buffers hold; no buffer changes and `CMD` keeps the value. That the step is
the completion when the engine is busy and `delay = 0` or no event is pending is the model's choice (assumption log 1). -/
def Obligations.IllegalCommandFailsAtCompletion : Prop :=
  ∀ s : State, s.busy = true → (s.delay = 0 ∨ s.pending = []) → IllegalValue s.cmd →
    ∃ t, step s = .next t ∧ t.Completed 5 false ∧ NoBufferChanged s t

/-- Every step, the host's or the engine's, keeps the invariant: a legal configuration, memory in canonical form, every
length within the capacity, `BUSY` and `DONE` never together, `TRUNC` only with `ERR = 0`, codes at most 5. -/
def Obligations.StepKeepsInvariant : Prop :=
  ∀ s t : State, s.Inv → step s = .next t → t.Inv

/-- The reset state meets the invariant, for the default configuration and for every legal one. -/
def Obligations.ResetMeetsInvariant : Prop :=
  State.reset.Inv ∧ ∀ c : Config, c.wf = true → (State.resetOf c).Inv

/-- R27: what reset leaves: the engine idle, `ID` its constant, `CTRL`, `STATUS` and `CMD` 0, every `LEN` 0, every word of
`DATA` unspecified, `irq` 0, `TWROM` the configuration's; the default block has `LOG2_NMAX = 10` and 512 ROM entries. -/
def Obligations.ResetLeavesTheStatedValues : Prop :=
  (∀ c : Config,
    (State.resetOf c).busy = false
    ∧ memRead (State.resetOf c) 0x00000 = (.ok, idWord c)
    ∧ memRead (State.resetOf c) 0x00001 = (.ok, 0)
    ∧ memRead (State.resetOf c) 0x00002 = (.ok, 0)
    ∧ memRead (State.resetOf c) 0x00003 = (.ok, 0)
    ∧ (∀ b, (State.resetOf c).lenOf b = 0)
    ∧ (∀ b i e, (State.resetOf c).mem.read (dataAddr b i e) = none)
    ∧ (State.resetOf c).irq = false
    ∧ (State.resetOf c).cfg = c)
  ∧ State.reset.cfg.log2Nmax = 10 ∧ State.reset.cfg.twrom.length = 512
  ∧ State.reset = State.resetOf State.reset.cfg

/-- R27, R141: reset gives the state of R27 whatever was in flight: no completion step, no result, no `DONE`, all buffers
empty and their words unspecified; the configuration stays. And reset is the only way a command ends without completing.
That reset is one event of the host's list is the model's choice (assumption logs 1 and 10). -/
def Obligations.ResetAbandonsTheCommandInFlight : Prop :=
  (∀ (s : State) (rest : List HostOp), (s.busy = false ∨ s.delay ≠ 0) → s.pending = .reset :: rest →
    ∃ t, step s = .next t ∧ t.cfg = s.cfg ∧ t.ie = false ∧ t.busy = false ∧ t.done = false ∧ t.trunc = false ∧ t.err = 0
      ∧ t.cmd = 0 ∧ (∀ b, t.lenOf b = 0) ∧ (∀ b i e, t.mem.read (dataAddr b i e) = none) ∧ t.irq = false
      ∧ memRead t 0x00000 = (.ok, idWord s.cfg) ∧ t.pending = rest)
  ∧ (∀ s t : State, s.busy = true → step s = .next t → t.busy = false →
      t.done = true ∨ ∃ rest, s.pending = .reset :: rest)

/-- R118, R130: a `WAIT` terminates: whatever the command in flight, after at most `delay + 2` steps the engine is idle, the
`WAIT` is done, and the host has read the final `STATUS`. The bound is the model's own: the spec says finite and no more
(assumption log 1). -/
def Obligations.WaitTerminates : Prop :=
  ∀ (s : State) (rest : List HostOp), s.pending = .wait :: rest →
    ∃ k t, k ≤ s.delay + 2 ∧ Host.Core.run Sys2Proof.core k s = .next t ∧ t.busy = false ∧ t.pending = rest
      ∧ t.port = some (.read .ok t.statusWord)

/-- R120, R130: the completion of a command ends in a success, whose result fits the buffer, or in one of the kinds the
command can raise; the codes are those of the table. -/
def Obligations.CommandEndsInSuccessOrAKindItCanRaise : Prop :=
  (∀ (i : Instr) (s : State), s.Inv →
    (∃ q t, 1 ≤ q.length ∧ q.length ≤ s.cfg.nmax ∧ Succeeds i s q t) ∨ (∃ k, k ∈ mayRaise i ∧ Fails i s k))
  ∧ FailKind.invalidInput.code = 1 ∧ FailKind.lengthMismatch.code = 2 ∧ FailKind.unsupported.code = 3
  ∧ FailKind.capacity.code = 4 ∧ FailKind.illegalCommand.code = 5

/-- R21: an event of the host that is no write to `CMD` or `STATUS` and no reset changes none of `BUSY`, `DONE`, `TRUNC` and
`ERR`; a write to `STATUS` changes at most `DONE`, and never sets it. When the host's turn comes is the model's choice
(assumption log 1). -/
def Obligations.FlagsChangeOnlyByIssueCompletionAndClear : Prop :=
  (∀ (s t : State) (op : HostOp) (rest : List HostOp), (s.busy = false ∨ s.delay ≠ 0) → s.pending = op :: rest →
    op ≠ .reset → (∀ v, op ≠ .memWrite 0x00002 v ∧ op ≠ .wr 0x00002 v ∧ op ≠ .memWrite 0x00003 v ∧ op ≠ .wr 0x00003 v) →
    step s = .next t → t.busy = s.busy ∧ t.done = s.done ∧ t.trunc = s.trunc ∧ t.err = s.err)
  ∧ (∀ (s t : State) (v : Word) (rest : List HostOp), (s.busy = false ∨ s.delay ≠ 0) →
    (s.pending = .memWrite 0x00002 v :: rest ∨ s.pending = .wr 0x00002 v :: rest) → step s = .next t →
    t.busy = s.busy ∧ t.trunc = s.trunc ∧ t.err = s.err ∧ (t.done = true → s.done = true))

/-! ## The host port -/

/-- R34: `resp = ERR` in exactly the five listed cases, reads and writes; a refused transaction changes no state, and as an
event of the host it leaves nothing but the answer. -/
def Obligations.RefusedTransactionsAreTheListed : Prop :=
  ∀ (s : State) (addr : HostAddr), s.cfg.wf = true →
    ((memRead s addr).1 = .err ↔
      ¬ Mapped s.cfg addr.toNat
        ∨ (s.busy = true ∧ ((4 ≤ addr.toNat ∧ addr.toNat ≤ 7) ∨ 0x80000 ≤ addr.toNat)))
    ∧ ∀ v : Word,
      ((memWrite s addr v).1 = .err ↔
        ¬ Mapped s.cfg addr.toNat
          ∨ (addr.toNat = 0 ∨ (0x40000 ≤ addr.toNat ∧ addr.toNat < 0x80000))
          ∨ ((4 ≤ addr.toNat ∧ addr.toNat ≤ 7) ∧ s.cfg.nmax < v.toNat)
          ∨ s.busy = true)
      ∧ ((memWrite s addr v).1 = .err →
        (memWrite s addr v).2 = s ∧ hostWrite s addr v = s.answered (.write .err))
      ∧ ((memRead s addr).1 = .err → ∃ any, hostRead s addr = s.answered (.read .err any))

/-- R30: what a read of each control register returns, in both engine phases; `LENb` is refused while busy; no read has a
side effect. -/
def Obligations.ControlReadsReturnTheRegisters : Prop :=
  ∀ s : State,
    memRead s 0x00000 = (.ok, idWord s.cfg)
    ∧ memRead s 0x00001 = (.ok, if s.ie then 1 else 0)
    ∧ (memRead s 0x00002).1 = .ok
    ∧ (memRead s 0x00002).2.getLsbD 0 = s.busy ∧ (memRead s 0x00002).2.getLsbD 1 = s.done
    ∧ (memRead s 0x00002).2.getLsbD 2 = s.trunc ∧ (memRead s 0x00002).2.getLsbD 3 = false
    ∧ (memRead s 0x00002).2.extractLsb' 4 4 = s.err ∧ (memRead s 0x00002).2.extractLsb' 8 56 = 0
    ∧ memRead s 0x00003 = (.ok, s.cmd)
    ∧ (∀ addr, (hostRead s addr).cfg = s.cfg ∧ (hostRead s addr).ie = s.ie ∧ (hostRead s addr).busy = s.busy
        ∧ (hostRead s addr).done = s.done ∧ (hostRead s addr).trunc = s.trunc ∧ (hostRead s addr).err = s.err
        ∧ (hostRead s addr).cmd = s.cmd ∧ (hostRead s addr).len = s.len ∧ (hostRead s addr).mem = s.mem)
    ∧ ∀ b : BufIx, (s.busy = true → (memRead s (addrLen b)).1 = .err)
      ∧ (s.busy = false → memRead s (addrLen b) = (.ok, BitVec.ofNat 64 (s.lenOf b)))

/-- R19: the fields of `ID`, its default value, and that a write to it is refused. -/
def Obligations.IdRegisterIsTheConstant : Prop :=
  (∀ c : Config, c.wf = true →
    (idWord c).extractLsb' 32 32 = 0x53445350 ∧ (idWord c).extractLsb' 16 16 = 0x0007
    ∧ (idWord c).extractLsb' 8 8 = 0x04 ∧ ((idWord c).extractLsb' 0 8).toNat = c.log2Nmax)
  ∧ idWord State.reset.cfg = 0x534453500007040A
  ∧ ∀ (s : State) (v : Word), memWrite s 0x00000 v = (.err, s)

/-- R31: what a write to each control register does while the engine is idle, and to nothing else: `CTRL` takes bit 0,
`STATUS` clears `DONE` by bit 1, `CMD` issues whatever the value is (how many host events get in before the completion is
not stated: the field `delay` is the model's own, assumption log 1), `LENb` takes a value up to `NMAX` and refuses one above;
while the engine is busy all of them are refused. That a `LENb` write leaves every word of `DATA[b]` as it was, those of a
command's result among them, is the model's choice (assumption log 12). -/
def Obligations.ControlWritesDoAsStated : Prop :=
  ∀ (s : State) (v : Word),
    (s.busy = true → ∀ addr : HostAddr, addr.toNat < 8 → memWrite s addr v = (.err, s))
    ∧ (s.busy = false →
      memWrite s 0x00000 v = (.err, s)
      ∧ memWrite s 0x00001 v = (.ok, { s with ie := v.getLsbD 0 })
      ∧ (v.getLsbD 1 = true → memWrite s 0x00002 v = (.ok, { s with done := false }))
      ∧ (v.getLsbD 1 = false → memWrite s 0x00002 v = (.ok, s))
      ∧ (∃ n, memWrite s 0x00003 v =
          (.ok, { s with cmd := v, busy := true, done := false, trunc := false, err := 0, delay := n }))
      ∧ ∀ b : BufIx,
        (v.toNat ≤ s.cfg.nmax → memWrite s (addrLen b) v = (.ok, { s with len := s.len.set b v.toNat }))
        ∧ (s.cfg.nmax < v.toNat → memWrite s (addrLen b) v = (.err, s)))

/-- R32: a populated word of the buffer region. Idle: a read is accepted and returns the word the address holds; a write is
accepted, is read back, and changes no other word and no register, `LEN` included. Busy: both are refused. -/
def Obligations.BufferWordsReadBackAsWritten : Prop :=
  ∀ (s : State) (b : BufIx) (i e : Nat), s.cfg.wf = true → i < s.cfg.nmax → e < 2 →
    (s.busy = true → (memRead s (addrData b i e)).1 = .err ∧ ∀ v, memWrite s (addrData b i e) v = (.err, s))
    ∧ (s.busy = false →
      (memRead s (addrData b i e)).1 = .ok
      ∧ (∀ w, s.mem.read (dataAddr b i e) = some w → (memRead s (addrData b i e)).2 = w)
      ∧ ∀ v, ∃ m, memWrite s (addrData b i e) v = (.ok, { s with mem := m })
        ∧ m.read (dataAddr b i e) = some v
        ∧ ∀ a, a ≠ dataAddr b i e → m.read a = s.mem.read a)

/-- R33: the ROM region: a populated entry reads as the image holds it in both engine phases, and every write is refused. -/
def Obligations.RomReadsTheImage : Prop :=
  ∀ (s : State) (j : Nat) (z : Sample), s.cfg.wf = true → s.cfg.twrom[j]? = some z →
    memRead s (BitVec.ofNat 20 (0x40000 + 2 * j)) = (.ok, z.re)
    ∧ memRead s (BitVec.ofNat 20 (0x40000 + 2 * j + 1)) = (.ok, z.im)
    ∧ ∀ v, memWrite s (BitVec.ofNat 20 (0x40000 + 2 * j)) v = (.err, s)
      ∧ memWrite s (BitVec.ofNat 20 (0x40000 + 2 * j + 1)) v = (.err, s)

/-- R118, R129: a line `RD` or `WR` of a script that gets `OK` goes on with the answer and the effect of the transaction; one
that gets `ERR` faults, and only then (assumption logs 1 and 7). -/
def Obligations.ScriptLineFaultsExactlyOnErr : Prop :=
  ∀ (s : State) (addr : HostAddr) (rest : List HostOp), (s.busy = false ∨ s.delay ≠ 0) →
    (s.pending = .rd addr :: rest →
      ((memRead s addr).1 = .ok → ∃ t, step s = .next t ∧ t.port = some (.read .ok (memRead s addr).2) ∧ t.pending = rest
        ∧ t.cfg = s.cfg ∧ t.ie = s.ie ∧ t.busy = s.busy ∧ t.done = s.done ∧ t.trunc = s.trunc ∧ t.err = s.err
        ∧ t.cmd = s.cmd ∧ t.len = s.len ∧ t.mem = s.mem)
      ∧ ((memRead s addr).1 = .err → ∃ why, step s = .fault (.scriptRefused why)))
    ∧ ∀ v, s.pending = .wr addr v :: rest →
      ((memWrite s addr v).1 = .ok → ∃ t, step s = .next t ∧ t.port = some (.write .ok) ∧ t.pending = rest
        ∧ t.cfg = s.cfg ∧ t.ie = (memWrite s addr v).2.ie ∧ t.busy = (memWrite s addr v).2.busy
        ∧ t.done = (memWrite s addr v).2.done ∧ t.trunc = (memWrite s addr v).2.trunc ∧ t.err = (memWrite s addr v).2.err
        ∧ t.cmd = (memWrite s addr v).2.cmd ∧ t.len = (memWrite s addr v).2.len ∧ t.mem = (memWrite s addr v).2.mem)
      ∧ ((memWrite s addr v).1 = .err → ∃ why, step s = .fault (.scriptRefused why))

/-- R144: while a command is in flight no event of the host but reset changes any register, length or word: a second `CMD`
write is lost, not queued. When the host's turn comes is the model's choice (assumption log 1). -/
def Obligations.BusyLocksTheHostOut : Prop :=
  ∀ (s t : State) (op : HostOp) (rest : List HostOp), s.busy = true → s.delay ≠ 0 → s.pending = op :: rest → op ≠ .reset →
    step s = .next t →
    t.cfg = s.cfg ∧ t.ie = s.ie ∧ t.busy = s.busy ∧ t.done = s.done ∧ t.trunc = s.trunc ∧ t.err = s.err ∧ t.cmd = s.cmd
      ∧ t.len = s.len ∧ t.mem = s.mem

/-- R127: the interrupt output is a level, `IE and DONE`; every completion, successful or failed, raises it when enabled; it
is cleared by clearing `DONE`, by the issue of the next command, by clearing `IE`, and by reset. -/
def Obligations.InterruptIsALevel : Prop :=
  (∀ s : State, s.irq = true ↔ s.ie = true ∧ s.done = true)
  ∧ (∀ (i : Instr) (s t : State), exec i s = .next t → t.irq = s.ie)
  ∧ (∀ (s : State) (v : Word), s.busy = false →
      (v.getLsbD 1 = true → (memWrite s 0x00002 v).2.irq = false)
      ∧ (memWrite s 0x00003 v).2.irq = false
      ∧ (v.getLsbD 0 = false → (memWrite s 0x00001 v).2.irq = false))
  ∧ (∀ s : State, s.doReset.irq = false)

/-! ## Numerics -/

/-- R42: `roundMag` gives the nearest element of `G` (the finite magnitudes and `2^1024`) to the exact magnitude `n / 2^t`
quanta; of two equally near it takes the one whose last bit is 0; from `2^1024 - 2^970` on it gives infinity, and up to
`2^(-1075)` it gives zero, each with the sign of the operand. -/
def Obligations.RoundingIsNearestTiesToEven : Prop :=
  (∀ n t p : Nat, p ≤ infPattern →
    |((magOf (roundMag n t) * 2 ^ t : Nat) : Int) - n| ≤ |((magOf p * 2 ^ t : Nat) : Int) - n|
    ∧ (|((magOf (roundMag n t) * 2 ^ t : Nat) : Int) - n| = |((magOf p * 2 ^ t : Nat) : Int) - n| → p ≠ roundMag n t →
        roundMag n t % 2 = 0))
  ∧ (∀ n t : Nat, roundMag n t ≤ infPattern)
  ∧ (∀ n t : Nat, (2 ^ 2098 - 2 ^ 2044) * 2 ^ t ≤ n → roundMag n t = infPattern)
  ∧ (∀ n t : Nat, 2 * n ≤ 2 ^ t → roundMag n t = 0)
  ∧ (∀ (s : Bool) (n t : Nat), signBit (RN s n t) = s ∧ (RN s n t).toNat % 2 ^ 63 = roundMag n t)

/-- R40: the value of a finite pattern is the one the table gives for its sign, exponent and fraction; `fval` counts it in
quanta of `2^(-1074)`. -/
def Obligations.PatternHasTheTableValue : Prop :=
  ∀ x : F64, isFinite x = true →
    (fval x : ℚ) / 2 ^ 1074 =
      (if signBit x then -1 else 1) *
        (if expField x = 0 then (2 : ℚ) ^ (-1022 : ℤ) * ((fracField x : ℚ) / 2 ^ 52)
         else (2 : ℚ) ^ ((expField x : ℤ) - 1023) * (1 + (fracField x : ℚ) / 2 ^ 52))

/-- R43: the cases of `fadd`: NaNs, infinities, zeros, an exact zero sum, and otherwise (R42) the sign of the exact sum and
the nearest element of `G`, ties to even. -/
def Obligations.AddIsCorrectlyRounded : Prop :=
  ∀ (p : Site) (x y : F64),
    (isNaN x = true ∨ isNaN y = true → isQuietNaN (fadd p x y) = true)
    ∧ (isInf x = true → isInf y = true → signBit x ≠ signBit y → isQuietNaN (fadd p x y) = true)
    ∧ (isInf x = true → isNaN y = false → (isInf y = true → signBit x = signBit y) → fadd p x y = x)
    ∧ (isInf y = true → isNaN x = false → (isInf x = true → signBit x = signBit y) → fadd p x y = y)
    ∧ (isZero x = true → isZero y = true → fadd p x y = if signBit x = signBit y then x else posZero)
    ∧ (isFinite x = true → isFinite y = true → isZero x = false → fval x + fval y = 0 → fadd p x y = posZero)
    ∧ (isFinite x = true → isFinite y = true → fval x + fval y ≠ 0 →
        isNaN (fadd p x y) = false ∧ (signBit (fadd p x y) = true ↔ fval x + fval y < 0)
        ∧ ∀ g, g ≤ infPattern →
          |(fmag (fadd p x y) : Int) - (fval x + fval y).natAbs| ≤ |(magOf g : Int) - (fval x + fval y).natAbs|
          ∧ (|(fmag (fadd p x y) : Int) - (fval x + fval y).natAbs| = |(magOf g : Int) - (fval x + fval y).natAbs| →
              magOf g ≠ fmag (fadd p x y) → (fadd p x y).getLsbD 0 = false))

/-- R45: the cases of `fmul`: NaNs, infinity times zero, infinities, zeros, and otherwise (R42) the sign of the exact product
and the nearest element of `G`, ties to even; magnitudes in quanta, so the exact product is `fmag x * fmag y / 2^1074`. -/
def Obligations.MulIsCorrectlyRounded : Prop :=
  ∀ (p : Site) (x y : F64),
    (isNaN x = true ∨ isNaN y = true → isQuietNaN (fmul p x y) = true)
    ∧ (isInf x = true → isZero y = true → isQuietNaN (fmul p x y) = true ∧ isQuietNaN (fmul p y x) = true)
    ∧ (isInf x = true ∨ isInf y = true → isNaN x = false → isNaN y = false → isZero x = false → isZero y = false →
        isInf (fmul p x y) = true ∧ signBit (fmul p x y) = (signBit x != signBit y))
    ∧ (isZero x = true ∨ isZero y = true → isFinite x = true → isFinite y = true →
        isZero (fmul p x y) = true ∧ signBit (fmul p x y) = (signBit x != signBit y))
    ∧ (isFinite x = true → isFinite y = true → isZero x = false → isZero y = false →
        isNaN (fmul p x y) = false ∧ signBit (fmul p x y) = (signBit x != signBit y)
        ∧ ∀ g, g ≤ infPattern →
          |((fmag (fmul p x y) * 2 ^ 1074 : Nat) : Int) - (fmag x * fmag y : Nat)|
              ≤ |((magOf g * 2 ^ 1074 : Nat) : Int) - (fmag x * fmag y : Nat)|
          ∧ (|((fmag (fmul p x y) * 2 ^ 1074 : Nat) : Int) - (fmag x * fmag y : Nat)|
                = |((magOf g * 2 ^ 1074 : Nat) : Int) - (fmag x * fmag y : Nat)| →
              magOf g ≠ fmag (fmul p x y) → (fmul p x y).getLsbD 0 = false))

/-- R43: the consequences stated for `fadd`: adding a zero to a value that is neither zero nor NaN returns it, `-0 + +0` is
`+0`, and addition is commutative up to the pattern of NaNs. -/
def Obligations.AddZeroAndCommute : Prop :=
  (∀ (p : Site) (x : F64), isNaN x = false → isZero x = false → fadd p x posZero = x ∧ fadd p x negZero = x)
  ∧ (∀ p : Site, fadd p negZero posZero = posZero)
  ∧ (∀ (p p' : Site) (x y : F64), SameWord (fadd p x y) (fadd p' y x))

/-- R44: the consequences stated for `fsub`. -/
def Obligations.SubOfEqualsIsPlusZero : Prop :=
  (∀ (p : Site) (x : F64), isFinite x = true → fsub p x x = posZero)
  ∧ (∀ (p : Site) (x y : F64), isNaN y = false → fsub p x y = fadd p x (fneg y))
  ∧ (∀ (p : Site) (x y : F64), isNaN y = true → isNaN (fsub p x y) = true)
  ∧ (∀ p : Site, fsub p posZero negZero = posZero ∧ fsub p negZero posZero = negZero)
  ∧ (∀ p : Site, isNaN (fsub p 0x7FF0000000000000 0x7FF0000000000000) = true)

/-- R45: the consequences stated for `fmul`: 1.0 is a unit, -1.0 negates, multiplication is commutative and a sign moves out
of it, up to the pattern of NaNs. -/
def Obligations.MulUnitSignAndCommute : Prop :=
  (∀ (p : Site) (x : F64), isNaN x = false → fmul p x fOne = x ∧ fmul p x fNegOne = fneg x)
  ∧ (∀ (p p' : Site) (x y : F64), SameWord (fmul p x y) (fmul p' y x))
  ∧ (∀ (p p' : Site) (x y : F64), isNaN x = false → isNaN y = false →
      SameWord (fmul p (fneg x) y) (fneg (fmul p' x y)))

/-- R46: `fneg` inverts bit 63 and no other, for every pattern, and undoes itself. -/
def Obligations.NegFlipsBit63Only : Prop :=
  ∀ x : F64, (∀ i, i < 63 → (fneg x).getLsbD i = x.getLsbD i) ∧ (fneg x).getLsbD 63 = !x.getLsbD 63 ∧ fneg (fneg x) = x

/-- R47: a NaN that an operation produces is quiet (bits 62:51 all 1), signalling operands included, and it is produced when
an operand is a NaN. -/
def Obligations.ProducedNaNsAreQuiet : Prop :=
  ∀ (p : Site) (x y : F64),
    (isNaN (fadd p x y) = true → isQuietNaN (fadd p x y) = true)
    ∧ (isNaN (fsub p x y) = true → isQuietNaN (fsub p x y) = true)
    ∧ (isNaN (fmul p x y) = true → isQuietNaN (fmul p x y) = true)
    ∧ (isNaN x = true ∨ isNaN y = true →
        isNaN (fadd p x y) = true ∧ isNaN (fsub p x y) = true ∧ isNaN (fmul p x y) = true)

/-- R49, R54: the complex product is commutative up to the pattern of NaNs, and scaling commutes with conjugation for parts
that are no NaNs. -/
def Obligations.ComplexProductCommutes : Prop :=
  (∀ (p p' : Site) (x y : Sample), SameSample (cmul p x y) (cmul p' y x))
  ∧ (∀ (p p' : Site) (x : Sample) (n : Nat), n ≤ 16 → isNaN x.re = false → isNaN x.im = false →
      cscale p (cconj x) n = cconj (cscale p' x n))

/-- R49: scaling by `2^(-n)` gives the correct rounding of the quotient by `2^n`, so multiplying by `1/N` and dividing by `N`
agree. -/
def Obligations.ScalingIsCorrectlyRoundedDivision : Prop :=
  ∀ (p : Site) (x : F64) (n : Nat), n ≤ 16 → isFinite x = true → isZero x = false →
    fmul p x (twoPowNeg n) = RN (signBit x) (fmag x) n

/-- R51, R52, R53: the integer helpers: a power of two has one bit set, `NextPow2` is the least power of two not below its
argument, `Log2` inverts `2^m`. -/
def Obligations.IntegerHelpersAreAsDefined : Prop :=
  (∀ n, isPow2 n = true ↔ ∃ m, n = 2 ^ m)
  ∧ (∀ n, isPow2 n = true ↔ n ≠ 0 ∧ n &&& (n - 1) = 0)
  ∧ (∀ m, 1 ≤ m → (∃ k, nextPow2 m = 2 ^ k) ∧ m ≤ nextPow2 m ∧ ∀ k, m ≤ 2 ^ k → nextPow2 m ≤ 2 ^ k)
  ∧ (∀ m, Nat.log2 (2 ^ m) = m)

/-! ## Sizer -/

/-- R57, R59: the padded length is the smallest power of two at least twice `max(n, m)`, at least 2 and below four times it;
two operands padded with their common maximum get one length. -/
def Obligations.PadLenIsTheSmallestPowerOfTwo : Prop :=
  (∀ n m, 1 ≤ n →
    (∃ k, padLen n m = 2 ^ k) ∧ 2 * max n m ≤ padLen n m ∧ (∀ k, 2 * max n m ≤ 2 ^ k → padLen n m ≤ 2 ^ k)
    ∧ 2 ≤ padLen n m ∧ padLen n m < 4 * max n m)
  ∧ (∀ x y, 1 ≤ x → 1 ≤ y →
    padLen x (max x y) = padLen y (max x y) ∧ padLen x (max x y) = nextPow2 (2 * max x y))

/-! ## Transform -/

/-- R78, R79: `Forward` keeps the length, returns a sequence of length 1 unchanged, and for length `2^(n+1)` combines the
transforms of the even-indexed and the odd-indexed halves: the two parts of `Butterfly(E[k], O[k], Twiddle(N, k))` stand at
`k` and `k + N/2`. -/
def Obligations.ForwardIsTheRecursion : Prop :=
  (∀ (c : Config) (p : Site) (q : List Sample), isPow2 q.length = true → (forward c p q).length = q.length)
  ∧ (∀ (c : Config) (p : Site) (z : Sample), forward c p [z] = [z])
  ∧ (∀ (q : List Sample) (m : Nat), (evens q)[m]? = q[2 * m]? ∧ (odds q)[m]? = q[2 * m + 1]?)
  ∧ (∀ (c : Config) (p : Site) (q : List Sample) (n : Nat), q.length = 2 ^ (n + 1) →
      ∃ pE pO : Site, ∀ k, k < 2 ^ n → ∃ e o pB,
        (forward c pE (evens q))[k]? = some e ∧ (forward c pO (odds q))[k]? = some o
        ∧ (forward c p q)[k]? = some (butterfly pB e o (twiddle c (2 ^ (n + 1)) k)).1
        ∧ (forward c p q)[k + 2 ^ n]? = some (butterfly pB e o (twiddle c (2 ^ (n + 1)) k)).2)

/-- R91: the iterative datapath computes the recursion, sample for sample and bit for bit, up to the pattern of NaNs. -/
def Obligations.IterativeDatapathEqualsRecursion : Prop :=
  ∀ (c : Config) (p p' : Site) (q : List Sample), isPow2 q.length = true →
    SameSeq (forwardIter c p q) (forward c p' q)

/-- R87, R88: `BitRev(n, .)` reads the `n` bits backwards, is a permutation of `[0, 2^n)` and its own inverse, fixes 0 and
`2^n - 1`, and sends even indices to the lower half and odd ones to the upper half, each permuted in turn. -/
def Obligations.BitReversalIsAnInvolution : Prop :=
  (∀ n i b, i < 2 ^ n → b < n → (bitRev n i).testBit (n - 1 - b) = i.testBit b)
  ∧ (∀ n i, i < 2 ^ n → bitRev n i < 2 ^ n ∧ bitRev n (bitRev n i) = i)
  ∧ (∀ n, bitRev n 0 = 0 ∧ bitRev n (2 ^ n - 1) = 2 ^ n - 1)
  ∧ (∀ n m, m < 2 ^ n → bitRev (n + 1) (2 * m) = bitRev n m ∧ bitRev (n + 1) (2 * m + 1) = 2 ^ n + bitRev n m)

/-- R69, R70: a transform does not depend on the capacity: with a ROM that is every `2^t`-th entry of a larger one, every
sequence that fits the smaller block has the same transform in both, bit for bit. Both are evaluated at one site; that the
patterns of the NaNs they produce there agree too is the model's choice (assumption log 5), where R70 and U1 promise
equality up to those patterns only. -/
def Obligations.ForwardDoesNotDependOnCapacity : Prop :=
  ∀ (small large : Config) (t : Nat) (p : Site) (q : List Sample), small.wf = true → large.wf = true →
    large.log2Nmax = small.log2Nmax + t → (∀ j, j < small.nmax / 2 → small.twrom[j]? = large.twrom[j * 2 ^ t]?) →
    isPow2 q.length = true → q.length ≤ small.nmax → forward small p q = forward large p q

/-- R76: the twiddles `(1.0, +0)` and `(+0, -1.0)` lose nothing: for a finite sample the product has the value of the sample,
and of `-i` times it. -/
def Obligations.UnitTwiddlesAreExact : Prop :=
  ∀ (p : Site) (o : Sample), isFinite o.re = true → isFinite o.im = true →
    (isFinite (cmul p ⟨fOne, posZero⟩ o).re = true ∧ isFinite (cmul p ⟨fOne, posZero⟩ o).im = true
      ∧ fval (cmul p ⟨fOne, posZero⟩ o).re = fval o.re ∧ fval (cmul p ⟨fOne, posZero⟩ o).im = fval o.im)
    ∧ (isFinite (cmul p ⟨posZero, fNegOne⟩ o).re = true ∧ isFinite (cmul p ⟨posZero, fNegOne⟩ o).im = true
      ∧ fval (cmul p ⟨posZero, fNegOne⟩ o).re = fval o.im ∧ fval (cmul p ⟨posZero, fNegOne⟩ o).im = -fval o.re)

/-- R66, R67: the exact entries, the symmetries and the signs of the default ROM image; at `j = 256` the half-period symmetry
holds in value only, the entry being `+0` (assumption log 20). -/
def Obligations.DefaultRomHasTheStatedSymmetries : Prop :=
  romEntry configDefault 0 = ⟨fOne, posZero⟩ ∧ romEntry configDefault 256 = ⟨posZero, fNegOne⟩
  ∧ romEntry configDefault 128 = ⟨0x3FE6A09E667F3BCD, 0xBFE6A09E667F3BCD⟩
  ∧ (∀ j, j < 256 → 0 < j →
      (romEntry configDefault (256 - j)).re = fneg (romEntry configDefault j).im
      ∧ (romEntry configDefault (256 - j)).im = fneg (romEntry configDefault j).re)
  ∧ (∀ j, j < 512 → 0 < j →
      ((romEntry configDefault (512 - j)).re = fneg (romEntry configDefault j).re ∨ j = 256)
      ∧ (romEntry configDefault (512 - j)).im = (romEntry configDefault j).im
      ∧ signBit (romEntry configDefault j).im = true
      ∧ (j < 256 → signBit (romEntry configDefault j).re = false ∧ isZero (romEntry configDefault j).re = false)
      ∧ (256 < j → signBit (romEntry configDefault j).re = true ∧ isZero (romEntry configDefault j).re = false))
  ∧ configDefault.twFinite = true

/-- R63, R65, R71 (`TW-ACCURATE`): the default entries for the angles 0, pi/8, pi/4 and pi/2 are within half an ulp of the
real cosine and minus sine, and exact where the real number is representable. -/
def Obligations.DefaultRomIsAccurateAtEighths : Prop :=
  ((fval (romEntry configDefault 0).re : ℝ) / 2 ^ 1074 = Real.cos (2 * Real.pi * 0 / 1024)
    ∧ (fval (romEntry configDefault 0).im : ℝ) / 2 ^ 1074 = -Real.sin (2 * Real.pi * 0 / 1024))
  ∧ (|(fval (romEntry configDefault 64).re : ℝ) / 2 ^ 1074 - Real.cos (2 * Real.pi * 64 / 1024)| ≤ 1 / 2 ^ 54
    ∧ |(fval (romEntry configDefault 64).im : ℝ) / 2 ^ 1074 - -Real.sin (2 * Real.pi * 64 / 1024)| ≤ 1 / 2 ^ 55)
  ∧ (|(fval (romEntry configDefault 128).re : ℝ) / 2 ^ 1074 - Real.cos (2 * Real.pi * 128 / 1024)| ≤ 1 / 2 ^ 54
    ∧ |(fval (romEntry configDefault 128).im : ℝ) / 2 ^ 1074 - -Real.sin (2 * Real.pi * 128 / 1024)| ≤ 1 / 2 ^ 54)
  ∧ ((fval (romEntry configDefault 256).re : ℝ) / 2 ^ 1074 = Real.cos (2 * Real.pi * 256 / 1024)
    ∧ (fval (romEntry configDefault 256).im : ℝ) / 2 ^ 1074 = -Real.sin (2 * Real.pi * 256 / 1024))

/-- R82: `Inverse` of a sequence of length 1 is that sequence, bit for bit, unless a part is a NaN; and `Inverse` keeps the
length. -/
def Obligations.InverseOfOneSampleIsItself : Prop :=
  (∀ (c : Config) (p : Site) (z : Sample), isNaN z.re = false → isNaN z.im = false → inverse c p [z] = [z])
  ∧ (∀ (c : Config) (p : Site) (q : List Sample), isPow2 q.length = true → (inverse c p q).length = q.length)

/-! ## The commands -/

/-- R60: `PAD`: `Unsupported` for an empty source, then `Capacity` for a padded length above `NMAX`; otherwise the source's
samples bit for bit, then `(+0, +0)` up to the padded length. -/
def Obligations.PadZeroPadsItsSource : Prop :=
  ∀ (d a : BufIx) (m : Nat) (s : State), s.Inv →
    (s.lenOf a = 0 → Fails (.pad d a m) s .unsupported)
    ∧ (s.lenOf a ≠ 0 → s.cfg.nmax < padLen (s.lenOf a) m → Fails (.pad d a m) s .capacity)
    ∧ (s.lenOf a ≠ 0 → padLen (s.lenOf a) m ≤ s.cfg.nmax →
        ∃ q, s.MayHold a q ∧
          Succeeds (.pad d a m) s (q ++ List.replicate (padLen (s.lenOf a) m - s.lenOf a) ⟨posZero, posZero⟩) false)

/-- R80: `FFT`: `Unsupported` for an empty source, `InvalidInput` for a length that is no power of two; otherwise the Forward
transform of the source. -/
def Obligations.FftTransformsItsSource : Prop :=
  ∀ (d a : BufIx) (s : State), s.Inv →
    (s.lenOf a = 0 → Fails (.fft d a) s .unsupported)
    ∧ (s.lenOf a ≠ 0 → (¬ ∃ n, s.lenOf a = 2 ^ n) → Fails (.fft d a) s .invalidInput)
    ∧ (∀ n, s.lenOf a = 2 ^ n → ∃ q p, s.MayHold a q ∧ Succeeds (.fft d a) s (forward s.cfg p q) false)

/-- R83, R81: `IFFT`: the tests of `FFT`; otherwise conjugate, Forward, conjugate, scale by `2^(-Log2 N)`, in this order. -/
def Obligations.IfftInvertsItsSource : Prop :=
  ∀ (d a : BufIx) (s : State), s.Inv →
    (s.lenOf a = 0 → Fails (.ifft d a) s .unsupported)
    ∧ (s.lenOf a ≠ 0 → (¬ ∃ n, s.lenOf a = 2 ^ n) → Fails (.ifft d a) s .invalidInput)
    ∧ (∀ n, s.lenOf a = 2 ^ n → ∃ q r p, s.MayHold a q ∧ r.length = q.length
        ∧ (∀ (i : Nat) (y : Sample), (forward s.cfg p (q.map cconj))[i]? = some y →
            ∃ p' : Site, r[i]? = some (cscale p' (cconj y) n))
        ∧ Succeeds (.ifft d a) s r false)

/-- R97: `MUL`: `Unsupported` for an empty first, then second source, under either policy; equal lengths give the pointwise
product; unequal lengths fail with `LengthMismatch` under `L = 0` and give the product over the shorter length with
`TRUNC = 1` under `L = 1`. Where both sources are one buffer both operands are one sequence, which the command squares. -/
def Obligations.MulMultipliesPointwise : Prop :=
  ∀ (d a b : BufIx) (l : Bool) (s : State), s.Inv →
    (s.lenOf a = 0 ∨ s.lenOf b = 0 → Fails (.mul d a b l) s .unsupported)
    ∧ (s.lenOf a ≠ 0 → s.lenOf b ≠ 0 → s.lenOf a ≠ s.lenOf b → l = false → Fails (.mul d a b l) s .lengthMismatch)
    ∧ (s.lenOf a ≠ 0 → s.lenOf b ≠ 0 → (s.lenOf a = s.lenOf b ∨ l = true) →
        ∃ A B C, s.MayHold a A ∧ s.MayHold b B ∧ (a = b → A = B) ∧ IsProduct A B C
          ∧ Succeeds (.mul d a b l) s C (decide (s.lenOf a ≠ s.lenOf b)))

/-- R98: `CONJ`: `Unsupported` for an empty source; otherwise every sample with its real word copied and bit 63 of its
imaginary word inverted. -/
def Obligations.ConjConjugatesItsSource : Prop :=
  ∀ (d a : BufIx) (s : State), s.Inv →
    (s.lenOf a = 0 → Fails (.conj d a) s .unsupported)
    ∧ (s.lenOf a ≠ 0 → ∃ q, s.MayHold a q ∧ Succeeds (.conj d a) s (q.map fun z => ⟨z.re, fneg z.im⟩) false)

/-- R101, R102, R126: `CONV`: the tests in their order (emptiness and capacity of the first operand, then of the second, then
the padded lengths against each other under `L = 0`); otherwise the inverse of the product of the two spectra, each operand
padded by its own length, with `TRUNC` set when the padded lengths differ. One buffer named twice is one sequence. -/
def Obligations.ConvIsPadForwardMultiplyInverse : Prop :=
  ∀ (d a b : BufIx) (l : Bool) (s : State), s.Inv →
    (s.lenOf a = 0 → Fails (.conv d a b l) s .unsupported)
    ∧ (s.lenOf a ≠ 0 → s.cfg.nmax < padLen (s.lenOf a) 0 → Fails (.conv d a b l) s .capacity)
    ∧ (s.lenOf a ≠ 0 → padLen (s.lenOf a) 0 ≤ s.cfg.nmax → s.lenOf b = 0 → Fails (.conv d a b l) s .unsupported)
    ∧ (s.lenOf a ≠ 0 → padLen (s.lenOf a) 0 ≤ s.cfg.nmax → s.lenOf b ≠ 0 → s.cfg.nmax < padLen (s.lenOf b) 0 →
        Fails (.conv d a b l) s .capacity)
    ∧ (s.lenOf a ≠ 0 → padLen (s.lenOf a) 0 ≤ s.cfg.nmax → s.lenOf b ≠ 0 → padLen (s.lenOf b) 0 ≤ s.cfg.nmax →
        padLen (s.lenOf a) 0 ≠ padLen (s.lenOf b) 0 → l = false → Fails (.conv d a b l) s .lengthMismatch)
    ∧ (s.lenOf a ≠ 0 → padLen (s.lenOf a) 0 ≤ s.cfg.nmax → s.lenOf b ≠ 0 → padLen (s.lenOf b) 0 ≤ s.cfg.nmax →
        (padLen (s.lenOf a) 0 = padLen (s.lenOf b) 0 ∨ l = true) →
        ∃ X Y C p1 p2 p3, s.MayHold a X ∧ s.MayHold b Y ∧ (a = b → X = Y)
          ∧ IsProduct (forward s.cfg p1 (padSeq X 0)) (forward s.cfg p2 (padSeq Y 0)) C
          ∧ Succeeds (.conv d a b l) s (inverse s.cfg p3 C) (decide (padLen (s.lenOf a) 0 ≠ padLen (s.lenOf b) 0)))

/-- R103, R126: `CONVIR`: emptiness of the first operand, capacity on `M = max(LEN[a], LEN[b])`, emptiness of the second;
otherwise the inverse of the product of the two spectra, both operands padded with the shared `M`, never truncated, whatever
`L` is; and with equal lengths it is `CONV`. One buffer named twice is one sequence. The last two clauses compare whole next
states at one stamp: that the free values in them, the patterns of produced NaNs and the unspecified words of the operands,
agree between the two commands is the model's choice (assumption logs 4 and 5); R103 promises the results only, up to the
patterns of NaNs (U1) and for specified operands. -/
def Obligations.ConvirPadsToASharedLength : Prop :=
  ∀ (d a b : BufIx) (l : Bool) (s : State), s.Inv →
    (s.lenOf a = 0 → Fails (.convir d a b l) s .unsupported)
    ∧ (s.lenOf a ≠ 0 → s.cfg.nmax < nextPow2 (2 * max (s.lenOf a) (s.lenOf b)) → Fails (.convir d a b l) s .capacity)
    ∧ (s.lenOf a ≠ 0 → nextPow2 (2 * max (s.lenOf a) (s.lenOf b)) ≤ s.cfg.nmax → s.lenOf b = 0 →
        Fails (.convir d a b l) s .unsupported)
    ∧ (s.lenOf a ≠ 0 → nextPow2 (2 * max (s.lenOf a) (s.lenOf b)) ≤ s.cfg.nmax → s.lenOf b ≠ 0 →
        ∃ X Y C p1 p2 p3, s.MayHold a X ∧ s.MayHold b Y ∧ (a = b → X = Y)
          ∧ IsProduct (forward s.cfg p1 (padSeq X (max (s.lenOf a) (s.lenOf b))))
              (forward s.cfg p2 (padSeq Y (max (s.lenOf a) (s.lenOf b)))) C
          ∧ C.length = nextPow2 (2 * max (s.lenOf a) (s.lenOf b))
          ∧ Succeeds (.convir d a b l) s (inverse s.cfg p3 C) false)
    ∧ exec (.convir d a b true) s = exec (.convir d a b false) s
    ∧ (s.lenOf a = s.lenOf b → exec (.convir d a b l) s = exec (.conv d a b l) s)

/-- R105, R106, R126: `XCORR`: the tests of `CONV` in the same order; otherwise the inverse of the product of the first
spectrum and the conjugate of the second. One buffer named twice is one sequence. -/
def Obligations.XcorrConjugatesTheSecondSpectrum : Prop :=
  ∀ (d a b : BufIx) (l : Bool) (s : State), s.Inv →
    (s.lenOf a = 0 → Fails (.xcorr d a b l) s .unsupported)
    ∧ (s.lenOf a ≠ 0 → s.cfg.nmax < padLen (s.lenOf a) 0 → Fails (.xcorr d a b l) s .capacity)
    ∧ (s.lenOf a ≠ 0 → padLen (s.lenOf a) 0 ≤ s.cfg.nmax → s.lenOf b = 0 → Fails (.xcorr d a b l) s .unsupported)
    ∧ (s.lenOf a ≠ 0 → padLen (s.lenOf a) 0 ≤ s.cfg.nmax → s.lenOf b ≠ 0 → s.cfg.nmax < padLen (s.lenOf b) 0 →
        Fails (.xcorr d a b l) s .capacity)
    ∧ (s.lenOf a ≠ 0 → padLen (s.lenOf a) 0 ≤ s.cfg.nmax → s.lenOf b ≠ 0 → padLen (s.lenOf b) 0 ≤ s.cfg.nmax →
        padLen (s.lenOf a) 0 ≠ padLen (s.lenOf b) 0 → l = false → Fails (.xcorr d a b l) s .lengthMismatch)
    ∧ (s.lenOf a ≠ 0 → padLen (s.lenOf a) 0 ≤ s.cfg.nmax → s.lenOf b ≠ 0 → padLen (s.lenOf b) 0 ≤ s.cfg.nmax →
        (padLen (s.lenOf a) 0 = padLen (s.lenOf b) 0 ∨ l = true) →
        ∃ X Y C p1 p2 p3, s.MayHold a X ∧ s.MayHold b Y ∧ (a = b → X = Y)
          ∧ IsProduct (forward s.cfg p1 (padSeq X 0)) ((forward s.cfg p2 (padSeq Y 0)).map cconj) C
          ∧ Succeeds (.xcorr d a b l) s (inverse s.cfg p3 C) (decide (padLen (s.lenOf a) 0 ≠ padLen (s.lenOf b) 0)))

/-- R16, R131, R132: whatever the command and its outcome, nothing but `STATUS` and the destination buffer changes; after a
failure the destination is unchanged too; and the outcome bits are those of a completion. -/
def Obligations.CommandChangesOnlyItsDestination : Prop :=
  ∀ (i : Instr) (s t : State), s.Inv → exec i s = .next t →
    OnlyBufferChanged i.dest s t ∧ t.busy = false ∧ t.done = true
      ∧ (t.err ≠ 0 → NoBufferChanged s t ∧ t.trunc = false)

/-- R7: the result of a command is a function of the command word and of the contents of its source buffers: two states of
one configuration that agree on the sources, and on nothing else, complete alike, up to the pattern of NaNs. -/
def Obligations.ResultDependsOnSourcesOnly : Prop :=
  ∀ (i : Instr) (s s' t t' : State), s.Inv → s'.Inv → s.cfg = s'.cfg →
    (∀ b, b ∈ i.sources → ∃ q, s.Holds b q ∧ s'.Holds b q) → exec i s = .next t → exec i s' = .next t' →
    t.err = t'.err ∧ t.trunc = t'.trunc
      ∧ (t.err = 0 → ∃ q q', t.Holds i.dest q ∧ t'.Holds i.dest q' ∧ SameSeq q q')

/-- R107: each composite command leaves in its destination exactly the sequence that the chain of elementary commands leaves
in its work buffer, up to the pattern of NaNs, and fails with the kind the first failing command of the chain reports. -/
def Obligations.CompositeEqualsTheChain : Prop :=
  ∀ (d a b w v : BufIx) (l : Bool) (s : State) (X Y : List Sample), s.Inv → s.Holds a X → s.Holds b Y → w ≠ v → w ≠ b →
    (∃ t t', exec (.conv d a b l) s = .next t
      ∧ runChain [.pad w a 0, .pad v b 0, .fft w w, .fft v v, .mul w w v l, .ifft w w] s = .next t'
      ∧ t.err = t'.err ∧ (t.err = 0 → ∃ q q', t.Holds d q ∧ t'.Holds w q' ∧ SameSeq q q'))
    ∧ (∃ t t', exec (.convir d a b l) s = .next t
      ∧ runChain [.pad w a (max X.length Y.length), .pad v b (max X.length Y.length), .fft w w, .fft v v, .mul w w v l,
          .ifft w w] s = .next t'
      ∧ t.err = t'.err ∧ (t.err = 0 → ∃ q q', t.Holds d q ∧ t'.Holds w q' ∧ SameSeq q q'))
    ∧ (∃ t t', exec (.xcorr d a b l) s = .next t
      ∧ runChain [.pad w a 0, .pad v b 0, .fft w w, .fft v v, .conj v v, .mul w w v l, .ifft w w] s = .next t'
      ∧ t.err = t'.err ∧ (t.err = 0 → ∃ q q', t.Holds d q ∧ t'.Holds w q' ∧ SameSeq q q'))

/-- R99: `CONJ Sd, Sa` followed by `CONJ Sd, Sd` leaves in `Sd` an exact copy of `Sa`, NaNs included; and the product with a
conjugate has the stated real and imaginary parts, up to the pattern of NaNs. -/
def Obligations.DoubleConjugateCopies : Prop :=
  (∀ (d a : BufIx) (s : State) (q : List Sample), s.Inv → s.Holds a q → q ≠ [] →
    ∃ t u, exec (.conj d a) s = .next t ∧ exec (.conj d d) t = .next u ∧ u.Holds d q)
  ∧ (∀ (p p1 p2 p3 : Site) (A B : Sample),
    SameWord (cmul p A (cconj B)).re (fadd p1 (fmul p2 A.re B.re) (fmul p3 A.im B.im))
    ∧ SameWord (cmul p A (cconj B)).im (fsub p1 (fmul p2 A.im B.re) (fmul p3 A.re B.im)))

/-- R97 (corner case, SHARPDSP's property): `MUL` of two all-zero sequences of one length is an all-zero sequence of that
length, under either policy. -/
def Obligations.MulOfZerosIsZeros : Prop :=
  ∀ (d a b : BufIx) (l : Bool) (s : State) (n : Nat), s.Inv → n ≠ 0 → s.Holds a (List.replicate n czero) →
    s.Holds b (List.replicate n czero) → Succeeds (.mul d a b l) s (List.replicate n czero) false
end

