-- ==== Sys2Proof/Laws/Memory.lean ====
section
/-! SUPPORT. The laws of the sample memory: read after write, what a stored sequence leaves at every address, and that
every operation keeps the canonical form. -/

namespace Sys2Proof.Machine

/-! ## Addresses -/

theorem bufBase_eq (b : BufIx) : bufBase b = 0x80000 + b.val * 0x20000 := by simp [bufBase, dataAddr]

theorem dataAddr_eq (b : BufIx) (i c : Nat) : dataAddr b i c = bufBase b + 2 * i + c := by simp [bufBase, dataAddr]

theorem inBuffer_iff (b : BufIx) (a : Nat) : inBuffer b a = true ↔ bufBase b ≤ a ∧ a < bufBase b + 0x20000 := by
  simp [inBuffer]

theorem inBuffer_dataAddr (b : BufIx) {i c : Nat} (hi : i < 0x10000) (hc : c < 2) : inBuffer b (dataAddr b i c) = true := by
  rw [inBuffer_iff, dataAddr_eq]; omega

/-- Two buffers share no address (10_state.md R16: "no two buffers share storage"). -/
theorem not_inBuffer_of_ne {b d : BufIx} (h : b ≠ d) {a : Nat} (ha : inBuffer b a = true) : inBuffer d a = false := by
  have hv : b.val ≠ d.val := fun hv => h (Fin.ext hv)
  rw [inBuffer_iff, bufBase_eq] at ha
  simp only [inBuffer, bufBase_eq, Bool.and_eq_false_iff, decide_eq_false_iff_not]
  omega

theorem nmax_le {c : Config} (h : c.wf = true) : c.nmax ≤ 0x10000 := by
  simp only [Config.wf, Bool.and_eq_true, decide_eq_true_eq] at h
  exact Nat.pow_le_pow_right (n := 2) (by decide) h.1.2

theorem populatedData_dataAddr {c : Config} (hc : c.nmax ≤ 0x10000) (b : BufIx) {i : Nat} (hi : i < c.nmax) {e : Nat}
    (he : e < 2) : populatedData c (dataAddr b i e) = true := by
  have hb := b.isLt
  have h1 : 0x80000 ≤ dataAddr b i e := by simp only [dataAddr]; omega
  have h2 : dataAddr b i e < 0x100000 := by simp only [dataAddr]; omega
  have h3 : dataAddr b i e % 0x20000 / 2 = i := by simp only [dataAddr]; omega
  simp [populatedData, h1, h2, h3, hi]

theorem exists_dataAddr_of_populated {c : Config} {a : Nat} (h : populatedData c a = true) :
    ∃ (b : BufIx) (i e : Nat), i < c.nmax ∧ e < 2 ∧ a = dataAddr b i e := by
  simp only [populatedData, Bool.and_eq_true, decide_eq_true_eq] at h
  obtain ⟨⟨h1, h2⟩, h3⟩ := h
  refine ⟨⟨a / 0x20000 - 4, by omega⟩, a % 0x20000 / 2, a % 2, h3, Nat.mod_lt _ (by decide), ?_⟩
  simp only [dataAddr]; omega

/-! ## Read after write -/

@[simp] theorem Memory.read_nil (a : Nat) : Memory.read [] a = none := rfl

theorem Memory.read_cons (k : Nat) (v : Word) (m : Memory) (a : Nat) :
    Memory.read ((k, v) :: m) a = if a = k then some v else Memory.read m a := by
  simp only [Memory.read, eq_comm]

theorem Memory.read_write (m : Memory) (a : Nat) (v : Word) (a' : Nat) :
    (m.write a v).read a' = if a' = a then some v else m.read a' := by
  induction m with
  | nil => simp [Memory.write, Memory.read_cons]
  | cons cell m ih =>
    obtain ⟨k, w⟩ := cell
    simp only [Memory.write]
    split
    · simp [Memory.read_cons]
    · split
      · next h => subst h; simp only [Memory.read_cons]; split <;> rfl
      · next h1 h2 =>
        simp only [Memory.read_cons, ih]
        by_cases h : a' = k
        · subst h; simp [Ne.symm h2]
        · simp [h]

@[simp] theorem Memory.read_write_same (m : Memory) (a : Nat) (v : Word) : (m.write a v).read a = some v := by
  simp [Memory.read_write]

theorem Memory.read_write_ne (m : Memory) {a a' : Nat} (v : Word) (h : a' ≠ a) : (m.write a v).read a' = m.read a' := by
  simp [Memory.read_write, h]

theorem Memory.read_append (m n : Memory) (a : Nat) : Memory.read (m ++ n) a = (m.read a).or (n.read a) := by
  induction m with
  | nil => simp
  | cons cell m ih =>
    obtain ⟨k, v⟩ := cell
    simp only [List.cons_append, Memory.read, ih]
    split <;> simp

theorem Memory.read_filter (m : Memory) (p : Nat → Bool) (a : Nat) :
    Memory.read (m.filter (fun cell => p cell.1)) a = if p a then m.read a else none := by
  induction m with
  | nil => simp
  | cons cell m ih =>
    obtain ⟨k, v⟩ := cell
    by_cases hk : p k = true
    · simp only [List.filter_cons, hk, if_true, Memory.read, ih]
      by_cases h : k = a
      · subst h; simp [hk]
      · simp [h]
    · simp only [List.filter_cons, hk, Memory.read, ih, if_false, Bool.false_eq_true]
      by_cases h : k = a
      · subst h; simp [hk]
      · simp [h]

/-! ## A sequence laid out from an address -/

theorem read_seqCells_low (q : List Sample) {a a' : Nat} (h : a' < a) : Memory.read (seqCells a q) a' = none := by
  induction q generalizing a with
  | nil => rfl
  | cons z q ih =>
    simp only [seqCells, Memory.read]
    rw [if_neg (by omega), if_neg (by omega), ih (by omega)]

theorem read_seqCells_high (q : List Sample) {a a' : Nat} (h : a + 2 * q.length ≤ a') :
    Memory.read (seqCells a q) a' = none := by
  induction q generalizing a with
  | nil => rfl
  | cons z q ih =>
    simp only [List.length_cons] at h
    simp only [seqCells, Memory.read]
    rw [if_neg (by omega), if_neg (by omega), ih (by omega)]

theorem read_seqCells_re (q : List Sample) (a i : Nat) {z : Sample} (h : q[i]? = some z) :
    Memory.read (seqCells a q) (a + 2 * i) = some z.re := by
  induction q generalizing a i with
  | nil => simp at h
  | cons y q ih =>
    cases i with
    | zero => simp at h; subst h; simp [seqCells, Memory.read]
    | succ i =>
      simp only [List.getElem?_cons_succ] at h
      simp only [seqCells, Memory.read]
      rw [if_neg (by omega), if_neg (by omega), ← ih (a + 2) i h]
      congr 1; omega

theorem read_seqCells_im (q : List Sample) (a i : Nat) {z : Sample} (h : q[i]? = some z) :
    Memory.read (seqCells a q) (a + 2 * i + 1) = some z.im := by
  induction q generalizing a i with
  | nil => simp at h
  | cons y q ih =>
    cases i with
    | zero => simp at h; subst h; simp [seqCells, Memory.read]
    | succ i =>
      simp only [List.getElem?_cons_succ] at h
      simp only [seqCells, Memory.read]
      rw [if_neg (by omega), if_neg (by omega), ← ih (a + 2) i h]
      congr 1; omega

/-- Outside the destination's region a stored sequence changes no address (60_exceptions.md R131). -/
theorem Memory.read_storeSeq_outside (m : Memory) (d : BufIx) (q : List Sample) (hq : q.length ≤ 0x10000) {a : Nat}
    (ha : inBuffer d a = false) : (m.storeSeq d q).read a = m.read a := by
  have h1 := m.read_filter (fun k => decide (k < bufBase d)) a
  have h2 := m.read_filter (fun k => decide (bufBase d + 0x20000 ≤ k)) a
  simp only [inBuffer, Bool.and_eq_false_iff, decide_eq_false_iff_not, not_le, not_lt] at ha
  rw [Memory.storeSeq, Memory.read_append, Memory.read_append, h1, h2]
  rcases ha with ha | ha
  · rw [read_seqCells_low q ha]
    simp only [decide_eq_true_eq, if_pos ha, if_neg (show ¬ (bufBase d + 0x20000 ≤ a) by omega)]
    simp
  · rw [read_seqCells_high q (by omega)]
    simp only [decide_eq_true_eq, if_neg (show ¬ (a < bufBase d) by omega), if_pos ha]
    simp

/-- Inside the destination's region a stored sequence leaves its own cells and nothing else. -/
theorem Memory.read_storeSeq_inside (m : Memory) (d : BufIx) (q : List Sample) {a : Nat} (ha : inBuffer d a = true) :
    (m.storeSeq d q).read a = Memory.read (seqCells (bufBase d) q) a := by
  have h1 := m.read_filter (fun k => decide (k < bufBase d)) a
  have h2 := m.read_filter (fun k => decide (bufBase d + 0x20000 ≤ k)) a
  rw [inBuffer_iff] at ha
  rw [Memory.storeSeq, Memory.read_append, Memory.read_append, h1, h2]
  simp only [decide_eq_true_eq, if_neg (show ¬ (a < bufBase d) by omega), if_neg (show ¬ (bufBase d + 0x20000 ≤ a) by omega)]
  simp

theorem Memory.read_storeSeq_re (m : Memory) (d : BufIx) (q : List Sample) (hq : q.length ≤ 0x10000) {i : Nat} {z : Sample}
    (h : q[i]? = some z) : (m.storeSeq d q).read (dataAddr d i 0) = some z.re := by
  have hi : i < q.length := (List.getElem?_eq_some_iff.mp h).1
  rw [Memory.read_storeSeq_inside _ _ _ (inBuffer_dataAddr d (by omega) (by decide)), dataAddr_eq]
  exact read_seqCells_re q _ i h

theorem Memory.read_storeSeq_im (m : Memory) (d : BufIx) (q : List Sample) (hq : q.length ≤ 0x10000) {i : Nat} {z : Sample}
    (h : q[i]? = some z) : (m.storeSeq d q).read (dataAddr d i 1) = some z.im := by
  have hi : i < q.length := (List.getElem?_eq_some_iff.mp h).1
  rw [Memory.read_storeSeq_inside _ _ _ (inBuffer_dataAddr d (by omega) (by decide)), dataAddr_eq]
  exact read_seqCells_im q _ i h

/-- Past the end of a stored sequence the destination's words are unspecified (10_state.md R15). -/
theorem Memory.read_storeSeq_tail (m : Memory) (d : BufIx) (q : List Sample) {i e : Nat} (hi : q.length ≤ i)
    (hlt : i < 0x10000) (he : e < 2) : (m.storeSeq d q).read (dataAddr d i e) = none := by
  rw [Memory.read_storeSeq_inside _ _ _ (inBuffer_dataAddr d hlt he), dataAddr_eq]
  exact read_seqCells_high q (by omega)

/-! ## The canonical form -/

theorem risingFrom_mono {m : Memory} {lo lo' : Nat} (h : risingFrom lo m = true) (hle : lo' ≤ lo) :
    risingFrom lo' m = true := by
  cases m with
  | nil => rfl
  | cons cell m =>
    obtain ⟨k, v⟩ := cell
    simp only [risingFrom, Bool.and_eq_true, decide_eq_true_eq] at h ⊢
    exact ⟨by omega, h.2⟩

theorem risingFrom_write {m : Memory} {lo a : Nat} (v : Word) (h : risingFrom lo m = true) (ha : lo ≤ a) :
    risingFrom lo (m.write a v) = true := by
  induction m generalizing lo with
  | nil => simp [Memory.write, risingFrom, ha]
  | cons cell m ih =>
    obtain ⟨k, w⟩ := cell
    simp only [risingFrom, Bool.and_eq_true, decide_eq_true_eq] at h
    simp only [Memory.write]
    split
    · next hk =>
      simp only [risingFrom, Bool.and_eq_true, decide_eq_true_eq]
      exact ⟨ha, by omega, h.2⟩
    · split
      · next hk => subst hk; simp only [risingFrom, Bool.and_eq_true, decide_eq_true_eq]; exact ⟨ha, h.2⟩
      · simp only [risingFrom, Bool.and_eq_true, decide_eq_true_eq]
        exact ⟨h.1, ih h.2 (by omega)⟩

theorem all_write {m : Memory} (p : Nat → Bool) {a : Nat} (v : Word) (h : m.all (fun cell => p cell.1) = true)
    (ha : p a = true) : (m.write a v).all (fun cell => p cell.1) = true := by
  induction m with
  | nil => simp [Memory.write, ha]
  | cons cell m ih =>
    obtain ⟨k, w⟩ := cell
    simp only [List.all_cons, Bool.and_eq_true] at h
    simp only [Memory.write]
    split
    · simp [ha, h]
    · split
      · simp only [List.all_cons, Bool.and_eq_true]; exact ⟨ha, h.2⟩
      · simp only [List.all_cons, Bool.and_eq_true]; exact ⟨h.1, ih h.2⟩

/-- A write of a populated word keeps the canonical form. -/
theorem Memory.wf_write {c : Config} {m : Memory} (h : m.wf c = true) {a : Nat} (ha : populatedData c a = true) (v : Word) :
    (m.write a v).wf c = true := by
  simp only [Memory.wf, Bool.and_eq_true] at h ⊢
  exact ⟨risingFrom_write v h.1 (Nat.zero_le _), all_write (populatedData c) v h.2 ha⟩

theorem risingFrom_append {m n : Memory} {lo mid : Nat} (hm : risingFrom lo m = true)
    (hlt : ∀ cell ∈ m, cell.1 < mid) (hle : lo ≤ mid) (hn : risingFrom mid n = true) : risingFrom lo (m ++ n) = true := by
  induction m generalizing lo with
  | nil => exact risingFrom_mono hn hle
  | cons cell m ih =>
    obtain ⟨k, v⟩ := cell
    simp only [risingFrom, Bool.and_eq_true, decide_eq_true_eq] at hm
    have hk : k < mid := hlt (k, v) (by simp)
    simp only [List.cons_append, risingFrom, Bool.and_eq_true, decide_eq_true_eq]
    exact ⟨hm.1, ih hm.2 (fun cell hc => hlt cell (by simp [hc])) (by omega)⟩

theorem risingFrom_filter {m : Memory} {lo : Nat} (p : MemCell → Bool) (h : risingFrom lo m = true) :
    risingFrom lo (m.filter p) = true := by
  induction m generalizing lo with
  | nil => rfl
  | cons cell m ih =>
    obtain ⟨k, v⟩ := cell
    simp only [risingFrom, Bool.and_eq_true, decide_eq_true_eq] at h
    rw [List.filter_cons]
    split
    · simp only [risingFrom, Bool.and_eq_true, decide_eq_true_eq]; exact ⟨h.1, ih h.2⟩
    · exact risingFrom_mono (ih h.2) (by omega)

theorem risingFrom_of_all_ge {m : Memory} {lo mid : Nat} (h : risingFrom lo m = true) (hge : ∀ cell ∈ m, mid ≤ cell.1) :
    risingFrom mid m = true := by
  cases m with
  | nil => rfl
  | cons cell m =>
    obtain ⟨k, v⟩ := cell
    simp only [risingFrom, Bool.and_eq_true, decide_eq_true_eq] at h ⊢
    exact ⟨hge (k, v) (by simp), h.2⟩

theorem risingFrom_seqCells (q : List Sample) (a : Nat) : risingFrom a (seqCells a q) = true := by
  induction q generalizing a with
  | nil => rfl
  | cons z q ih =>
    simp only [seqCells, risingFrom, Bool.and_eq_true, decide_eq_true_eq]
    exact ⟨le_refl _, le_refl _, ih (a + 2)⟩

theorem mem_seqCells {q : List Sample} {a : Nat} {cell : MemCell} (h : cell ∈ seqCells a q) :
    ∃ i e, i < q.length ∧ e < 2 ∧ cell.1 = a + 2 * i + e := by
  induction q generalizing a with
  | nil => simp [seqCells] at h
  | cons z q ih =>
    simp only [seqCells, List.mem_cons] at h
    rcases h with rfl | rfl | h
    · exact ⟨0, 0, by simp, by decide, by simp⟩
    · exact ⟨0, 1, by simp, by decide, by simp⟩
    · obtain ⟨i, e, hi, he, hc⟩ := ih h
      exact ⟨i + 1, e, by simp [hi], he, by omega⟩

/-- Storing a sequence that fits the buffer keeps the canonical form. -/
theorem Memory.wf_storeSeq {c : Config} (hc : c.nmax ≤ 0x10000) {m : Memory} (h : m.wf c = true) (d : BufIx)
    {q : List Sample} (hq : q.length ≤ c.nmax) : (m.storeSeq d q).wf c = true := by
  simp only [Memory.wf, Bool.and_eq_true, List.all_eq_true] at h ⊢
  obtain ⟨hr, hall⟩ := h
  constructor
  · rw [Memory.storeSeq, List.append_assoc]
    apply risingFrom_append (mid := bufBase d) (risingFrom_filter _ hr)
    · intro cell hcell
      have := (List.mem_filter.mp hcell).2
      simpa using this
    · exact Nat.zero_le _
    · apply risingFrom_append (mid := bufBase d + 0x20000) (risingFrom_seqCells _ _)
      · intro cell hcell
        obtain ⟨i, e, hi, he, hce⟩ := mem_seqCells hcell
        omega
      · omega
      · apply risingFrom_of_all_ge (risingFrom_filter _ hr)
        intro cell hcell
        have := (List.mem_filter.mp hcell).2
        simpa using this
  · intro cell hcell
    simp only [Memory.storeSeq, List.mem_append] at hcell
    rcases hcell with (hcell | hcell) | hcell
    · exact hall _ (List.mem_filter.mp hcell).1
    · obtain ⟨i, e, hi, he, hce⟩ := mem_seqCells hcell
      rw [hce, ← dataAddr_eq]
      exact populatedData_dataAddr hc d (by omega) he
    · exact hall _ (List.mem_filter.mp hcell).1

@[simp] theorem Memory.wf_nil (c : Config) : Memory.wf c [] = true := rfl

/-! ## The word a use sees -/

theorem Memory.wordAt_of_read {m : Memory} {a : Nat} {v : Word} (h : m.read a = some v) (p : List Nat) : m.wordAt p a = v := by
  simp [Memory.wordAt, h]

end Sys2Proof.Machine
end

