-- ==== Sys2Proof/Laws/State.lean ====
section
/-! SUPPORT. One lemma per field per update of the state, true by rfl, so that no proof unfolds a record update. -/

namespace Sys2Proof.Machine

/-! `issue`: what each field is after a command is issued (20_memory.md R31). -/

@[simp] theorem State.issue_cfg (s : State) (v : Word) : (s.issue v).cfg = s.cfg := rfl
@[simp] theorem State.issue_ie (s : State) (v : Word) : (s.issue v).ie = s.ie := rfl
@[simp] theorem State.issue_busy (s : State) (v : Word) : (s.issue v).busy = true := rfl
@[simp] theorem State.issue_done (s : State) (v : Word) : (s.issue v).done = false := rfl
@[simp] theorem State.issue_trunc (s : State) (v : Word) : (s.issue v).trunc = false := rfl
@[simp] theorem State.issue_err (s : State) (v : Word) : (s.issue v).err = 0 := rfl
@[simp] theorem State.issue_cmd (s : State) (v : Word) : (s.issue v).cmd = v := rfl
@[simp] theorem State.issue_len (s : State) (v : Word) : (s.issue v).len = s.len := rfl
@[simp] theorem State.issue_mem (s : State) (v : Word) : (s.issue v).mem = s.mem := rfl
@[simp] theorem State.issue_stamp (s : State) (v : Word) : (s.issue v).stamp = s.stamp := rfl
@[simp] theorem State.issue_delay (s : State) (v : Word) : (s.issue v).delay = Config.freeDelay s.stamp := rfl
@[simp] theorem State.issue_pending (s : State) (v : Word) : (s.issue v).pending = s.pending := rfl
@[simp] theorem State.issue_port (s : State) (v : Word) : (s.issue v).port = s.port := rfl

/-! `issueNow`: as `issue`, the completion due at once. -/

@[simp] theorem State.issueNow_cfg (s : State) (v : Word) : (s.issueNow v).cfg = s.cfg := rfl
@[simp] theorem State.issueNow_ie (s : State) (v : Word) : (s.issueNow v).ie = s.ie := rfl
@[simp] theorem State.issueNow_busy (s : State) (v : Word) : (s.issueNow v).busy = true := rfl
@[simp] theorem State.issueNow_done (s : State) (v : Word) : (s.issueNow v).done = false := rfl
@[simp] theorem State.issueNow_trunc (s : State) (v : Word) : (s.issueNow v).trunc = false := rfl
@[simp] theorem State.issueNow_err (s : State) (v : Word) : (s.issueNow v).err = 0 := rfl
@[simp] theorem State.issueNow_cmd (s : State) (v : Word) : (s.issueNow v).cmd = v := rfl
@[simp] theorem State.issueNow_len (s : State) (v : Word) : (s.issueNow v).len = s.len := rfl
@[simp] theorem State.issueNow_mem (s : State) (v : Word) : (s.issueNow v).mem = s.mem := rfl
@[simp] theorem State.issueNow_stamp (s : State) (v : Word) : (s.issueNow v).stamp = s.stamp := rfl
@[simp] theorem State.issueNow_delay (s : State) (v : Word) : (s.issueNow v).delay = 0 := rfl
@[simp] theorem State.issueNow_pending (s : State) (v : Word) : (s.issueNow v).pending = s.pending := rfl
@[simp] theorem State.issueNow_port (s : State) (v : Word) : (s.issueNow v).port = s.port := rfl

/-! `succeed`: what each field is after a successful completion (60_exceptions.md R131). -/

@[simp] theorem State.succeed_cfg (s : State) (d : BufIx) (q : List Sample) (t : Bool) : (s.succeed d q t).cfg = s.cfg := rfl
@[simp] theorem State.succeed_ie (s : State) (d : BufIx) (q : List Sample) (t : Bool) : (s.succeed d q t).ie = s.ie := rfl
@[simp] theorem State.succeed_busy (s : State) (d : BufIx) (q : List Sample) (t : Bool) : (s.succeed d q t).busy = false := rfl
@[simp] theorem State.succeed_done (s : State) (d : BufIx) (q : List Sample) (t : Bool) : (s.succeed d q t).done = true := rfl
@[simp] theorem State.succeed_trunc (s : State) (d : BufIx) (q : List Sample) (t : Bool) : (s.succeed d q t).trunc = t := rfl
@[simp] theorem State.succeed_err (s : State) (d : BufIx) (q : List Sample) (t : Bool) : (s.succeed d q t).err = 0 := rfl
@[simp] theorem State.succeed_cmd (s : State) (d : BufIx) (q : List Sample) (t : Bool) : (s.succeed d q t).cmd = s.cmd := rfl
@[simp] theorem State.succeed_len (s : State) (d : BufIx) (q : List Sample) (t : Bool) : (s.succeed d q t).len = s.len.set d q.length := rfl
@[simp] theorem State.succeed_mem (s : State) (d : BufIx) (q : List Sample) (t : Bool) : (s.succeed d q t).mem = s.mem.storeSeq d q := rfl
@[simp] theorem State.succeed_stamp (s : State) (d : BufIx) (q : List Sample) (t : Bool) : (s.succeed d q t).stamp = s.stamp + 1 := rfl
@[simp] theorem State.succeed_delay (s : State) (d : BufIx) (q : List Sample) (t : Bool) : (s.succeed d q t).delay = s.delay := rfl
@[simp] theorem State.succeed_pending (s : State) (d : BufIx) (q : List Sample) (t : Bool) : (s.succeed d q t).pending = s.pending := rfl
@[simp] theorem State.succeed_port (s : State) (d : BufIx) (q : List Sample) (t : Bool) : (s.succeed d q t).port = s.port := rfl

/-! `failWith`: what each field is after a failed completion (60_exceptions.md R132). -/

@[simp] theorem State.failWith_cfg (s : State) (k : FailKind) : (s.failWith k).cfg = s.cfg := rfl
@[simp] theorem State.failWith_ie (s : State) (k : FailKind) : (s.failWith k).ie = s.ie := rfl
@[simp] theorem State.failWith_busy (s : State) (k : FailKind) : (s.failWith k).busy = false := rfl
@[simp] theorem State.failWith_done (s : State) (k : FailKind) : (s.failWith k).done = true := rfl
@[simp] theorem State.failWith_trunc (s : State) (k : FailKind) : (s.failWith k).trunc = false := rfl
@[simp] theorem State.failWith_err (s : State) (k : FailKind) : (s.failWith k).err = k.code := rfl
@[simp] theorem State.failWith_cmd (s : State) (k : FailKind) : (s.failWith k).cmd = s.cmd := rfl
@[simp] theorem State.failWith_len (s : State) (k : FailKind) : (s.failWith k).len = s.len := rfl
@[simp] theorem State.failWith_mem (s : State) (k : FailKind) : (s.failWith k).mem = s.mem := rfl
@[simp] theorem State.failWith_stamp (s : State) (k : FailKind) : (s.failWith k).stamp = s.stamp + 1 := rfl
@[simp] theorem State.failWith_delay (s : State) (k : FailKind) : (s.failWith k).delay = s.delay := rfl
@[simp] theorem State.failWith_pending (s : State) (k : FailKind) : (s.failWith k).pending = s.pending := rfl
@[simp] theorem State.failWith_port (s : State) (k : FailKind) : (s.failWith k).port = s.port := rfl

/-! `answered`: what each field is after a port transaction is answered. -/

@[simp] theorem State.answered_cfg (s : State) (ans : Answer) : (s.answered ans).cfg = s.cfg := rfl
@[simp] theorem State.answered_ie (s : State) (ans : Answer) : (s.answered ans).ie = s.ie := rfl
@[simp] theorem State.answered_busy (s : State) (ans : Answer) : (s.answered ans).busy = s.busy := rfl
@[simp] theorem State.answered_done (s : State) (ans : Answer) : (s.answered ans).done = s.done := rfl
@[simp] theorem State.answered_trunc (s : State) (ans : Answer) : (s.answered ans).trunc = s.trunc := rfl
@[simp] theorem State.answered_err (s : State) (ans : Answer) : (s.answered ans).err = s.err := rfl
@[simp] theorem State.answered_cmd (s : State) (ans : Answer) : (s.answered ans).cmd = s.cmd := rfl
@[simp] theorem State.answered_len (s : State) (ans : Answer) : (s.answered ans).len = s.len := rfl
@[simp] theorem State.answered_mem (s : State) (ans : Answer) : (s.answered ans).mem = s.mem := rfl
@[simp] theorem State.answered_stamp (s : State) (ans : Answer) : (s.answered ans).stamp = s.stamp + 1 := rfl
@[simp] theorem State.answered_delay (s : State) (ans : Answer) : (s.answered ans).delay = s.delay := rfl
@[simp] theorem State.answered_pending (s : State) (ans : Answer) : (s.answered ans).pending = s.pending := rfl
@[simp] theorem State.answered_port (s : State) (ans : Answer) : (s.answered ans).port = some ans := rfl

/-! `doReset`: what each field is after reset (10_state.md R27). -/

@[simp] theorem State.doReset_cfg (s : State) : (s.doReset).cfg = s.cfg := rfl
@[simp] theorem State.doReset_ie (s : State) : (s.doReset).ie = false := rfl
@[simp] theorem State.doReset_busy (s : State) : (s.doReset).busy = false := rfl
@[simp] theorem State.doReset_done (s : State) : (s.doReset).done = false := rfl
@[simp] theorem State.doReset_trunc (s : State) : (s.doReset).trunc = false := rfl
@[simp] theorem State.doReset_err (s : State) : (s.doReset).err = 0 := rfl
@[simp] theorem State.doReset_cmd (s : State) : (s.doReset).cmd = 0 := rfl
@[simp] theorem State.doReset_len (s : State) : (s.doReset).len = ⟨0, 0, 0, 0⟩ := rfl
@[simp] theorem State.doReset_mem (s : State) : (s.doReset).mem = [] := rfl
@[simp] theorem State.doReset_stamp (s : State) : (s.doReset).stamp = s.stamp + 1 := rfl
@[simp] theorem State.doReset_delay (s : State) : (s.doReset).delay = 0 := rfl
@[simp] theorem State.doReset_pending (s : State) : (s.doReset).pending = s.pending := rfl
@[simp] theorem State.doReset_port (s : State) : (s.doReset).port = s.port := rfl

/-! `resetOf`: the state after reset, field by field (10_state.md R27). -/

@[simp] theorem State.resetOf_cfg (c : Config) : (State.resetOf c).cfg = c := rfl
@[simp] theorem State.resetOf_ie (c : Config) : (State.resetOf c).ie = false := rfl
@[simp] theorem State.resetOf_busy (c : Config) : (State.resetOf c).busy = false := rfl
@[simp] theorem State.resetOf_done (c : Config) : (State.resetOf c).done = false := rfl
@[simp] theorem State.resetOf_trunc (c : Config) : (State.resetOf c).trunc = false := rfl
@[simp] theorem State.resetOf_err (c : Config) : (State.resetOf c).err = 0 := rfl
@[simp] theorem State.resetOf_cmd (c : Config) : (State.resetOf c).cmd = 0 := rfl
@[simp] theorem State.resetOf_len (c : Config) : (State.resetOf c).len = ⟨0, 0, 0, 0⟩ := rfl
@[simp] theorem State.resetOf_mem (c : Config) : (State.resetOf c).mem = [] := rfl
@[simp] theorem State.resetOf_stamp (c : Config) : (State.resetOf c).stamp = 0 := rfl
@[simp] theorem State.resetOf_delay (c : Config) : (State.resetOf c).delay = 0 := rfl
@[simp] theorem State.resetOf_pending (c : Config) : (State.resetOf c).pending = [] := rfl
@[simp] theorem State.resetOf_port (c : Config) : (State.resetOf c).port = none := rfl

/-! The length registers. -/

@[simp] theorem Lens.get_set_same (l : Lens) (b : BufIx) (n : Nat) : (l.set b n).get b = n := by
  fin_cases b <;> rfl

theorem Lens.get_set_ne (l : Lens) {b d : BufIx} (n : Nat) (h : b ≠ d) : (l.set d n).get b = l.get b := by
  fin_cases b <;> fin_cases d <;> first | rfl | exact absurd rfl h

theorem Lens.get_set (l : Lens) (b d : BufIx) (n : Nat) : (l.set d n).get b = if b = d then n else l.get b := by
  split
  · next h => subst h; simp
  · next h => exact l.get_set_ne n h

@[simp] theorem Lens.get_zero (b : BufIx) : (⟨0, 0, 0, 0⟩ : Lens).get b = 0 := by fin_cases b <;> rfl

/-! What the readers of the state see after an update. -/

@[simp] theorem State.lenOf_succeed_same (s : State) (d : BufIx) (q : List Sample) (t : Bool) :
    (s.succeed d q t).lenOf d = q.length := by simp [State.lenOf]

theorem State.lenOf_succeed_ne (s : State) {b d : BufIx} (q : List Sample) (t : Bool) (h : b ≠ d) :
    (s.succeed d q t).lenOf b = s.lenOf b := by simp [State.lenOf, Lens.get_set_ne _ _ h]

@[simp] theorem State.lenOf_failWith (s : State) (k : FailKind) (b : BufIx) : (s.failWith k).lenOf b = s.lenOf b := rfl

@[simp] theorem State.lenOf_issue (s : State) (v : Word) (b : BufIx) : (s.issue v).lenOf b = s.lenOf b := rfl

@[simp] theorem State.lenOf_answered (s : State) (ans : Answer) (b : BufIx) : (s.answered ans).lenOf b = s.lenOf b := rfl

@[simp] theorem State.lenOf_doReset (s : State) (b : BufIx) : s.doReset.lenOf b = 0 := by simp [State.lenOf]

@[simp] theorem FailKind.code_ne_zero (k : FailKind) : k.code ≠ 0 := by cases k <;> decide

theorem FailKind.code_le (k : FailKind) : k.code.toNat ≤ 5 := by cases k <;> decide

end Sys2Proof.Machine
end

