-- ==== Sys2Proof/Laws/Numerics.lean ====
section
/-! SUPPORT. The laws of the scalar and complex primitives: the fields of a packed result, which results are NaNs, and
that every operation respects equality up to the pattern of NaNs. -/

namespace Sys2Proof.Machine

/-! ## Fields of a pattern -/

theorem expField_eq (x : F64) : expField x = x.toNat / 2 ^ 52 % 2 ^ 11 := by
  simp [expField, BitVec.extractLsb'_toNat, Nat.shiftRight_eq_div_pow]

theorem fracField_eq (x : F64) : fracField x = x.toNat % 2 ^ 52 := by
  simp [fracField, BitVec.extractLsb'_toNat]

theorem signBit_eq (x : F64) : signBit x = decide (2 ^ 63 ≤ x.toNat) := by
  simp [signBit, BitVec.msb_eq_decide]

theorem toNat_withSign (s : Bool) {p : Nat} (hp : p < 2 ^ 63) : (withSign s p).toNat = p + s.toNat * 2 ^ 63 := by
  have : s.toNat ≤ 1 := Bool.toNat_le s
  simp only [withSign, BitVec.toNat_ofNat]
  apply Nat.mod_eq_of_lt; omega

theorem absPat_withSign (s : Bool) {p : Nat} (hp : p < 2 ^ 63) : (withSign s p).toNat % 2 ^ 63 = p := by
  rw [toNat_withSign s hp]; omega

theorem signBit_withSign (s : Bool) {p : Nat} (hp : p < 2 ^ 63) : signBit (withSign s p) = s := by
  rw [signBit_eq, toNat_withSign s hp]
  cases s
  · simpa using hp
  · simp

theorem expField_withSign (s : Bool) {p : Nat} (hp : p < 2 ^ 63) : expField (withSign s p) = p / 2 ^ 52 := by
  rw [expField_eq, toNat_withSign s hp]; omega

theorem fracField_withSign (s : Bool) {p : Nat} (hp : p < 2 ^ 63) : fracField (withSign s p) = p % 2 ^ 52 := by
  rw [fracField_eq, toNat_withSign s hp]; omega

/-- A pattern is its sign and the rest. -/
theorem withSign_self (x : F64) : withSign (signBit x) (x.toNat % 2 ^ 63) = x := by
  apply BitVec.eq_of_toNat_eq
  rw [toNat_withSign _ (Nat.mod_lt _ (by decide)), signBit_eq]
  have := x.isLt
  by_cases h : 2 ^ 63 ≤ x.toNat
  · simp only [h, decide_true, Bool.toNat_true]; omega
  · simp only [h, decide_false, Bool.toNat_false]; omega

/-- A pattern is a NaN exactly when its part below the sign is above that of infinity. -/
theorem isNaN_iff (x : F64) : isNaN x = true ↔ infPattern < x.toNat % 2 ^ 63 := by
  simp only [isNaN, expField_eq, fracField_eq, infPattern, Bool.and_eq_true, beq_iff_eq, bne_iff_ne]
  omega

theorem isInf_iff (x : F64) : isInf x = true ↔ x.toNat % 2 ^ 63 = infPattern := by
  simp only [isInf, expField_eq, fracField_eq, infPattern, Bool.and_eq_true, beq_iff_eq]
  omega

theorem isZero_iff (x : F64) : isZero x = true ↔ x.toNat % 2 ^ 63 = 0 := by
  simp only [isZero, expField_eq, fracField_eq, Bool.and_eq_true, beq_iff_eq]
  omega

theorem isFinite_iff (x : F64) : isFinite x = true ↔ x.toNat % 2 ^ 63 < infPattern := by
  simp only [isFinite, expField_eq, infPattern, bne_iff_ne]
  omega

theorem isFinite_iff_not (x : F64) : isFinite x = true ↔ isNaN x = false ∧ isInf x = false := by
  rw [isFinite_iff, ← Bool.not_eq_true, ← Bool.not_eq_true, isNaN_iff, isInf_iff]
  omega

/-! ## Negation -/

theorem fneg_eq (x : F64) : fneg x = withSign (!signBit x) (x.toNat % 2 ^ 63) := by
  have h : fneg (fneg x) = x := by simp [fneg]
  apply BitVec.eq_of_getLsbD_eq
  intro i hi
  by_cases h63 : i = 63
  · subst h63
    have h1 : (withSign (!signBit x) (x.toNat % 2 ^ 63)).getLsbD 63 = !signBit x := by
      have := signBit_withSign (!signBit x) (Nat.mod_lt x.toNat (show 0 < 2 ^ 63 by decide))
      simpa [signBit, BitVec.msb_eq_getLsbD_last] using this
    rw [h1]
    simp [fneg, signBit, BitVec.msb_eq_getLsbD_last]
  · have h2 : (0x8000000000000000 : BitVec 64).getLsbD i = false := by
      have hi' : i < 63 := by omega
      have : (0x8000000000000000 : BitVec 64) = BitVec.twoPow 64 63 := by decide
      rw [this, BitVec.getLsbD_twoPow]; simp; omega
    have h3 : (withSign (!signBit x) (x.toNat % 2 ^ 63)).getLsbD i = x.getLsbD i := by
      rw [BitVec.getLsbD, toNat_withSign _ (Nat.mod_lt _ (by decide)), BitVec.getLsbD]
      rw [Nat.add_comm, Nat.mul_comm, Nat.testBit_two_pow_mul_add _ (Nat.mod_lt _ (by decide))]
      rw [if_pos (by omega), Nat.testBit_mod_two_pow]
      simp; omega
    rw [h3, fneg, BitVec.getLsbD_xor, h2, Bool.xor_false]

@[simp] theorem fneg_fneg (x : F64) : fneg (fneg x) = x := by simp [fneg]

@[simp] theorem absPat_fneg (x : F64) : (fneg x).toNat % 2 ^ 63 = x.toNat % 2 ^ 63 := by
  rw [fneg_eq, absPat_withSign _ (Nat.mod_lt _ (by decide))]

@[simp] theorem signBit_fneg (x : F64) : signBit (fneg x) = !signBit x := by
  rw [fneg_eq, signBit_withSign _ (Nat.mod_lt _ (by decide))]

@[simp] theorem isNaN_fneg (x : F64) : isNaN (fneg x) = isNaN x := by
  rw [Bool.eq_iff_iff, isNaN_iff, isNaN_iff, absPat_fneg]

@[simp] theorem isInf_fneg (x : F64) : isInf (fneg x) = isInf x := by
  rw [Bool.eq_iff_iff, isInf_iff, isInf_iff, absPat_fneg]

@[simp] theorem isZero_fneg (x : F64) : isZero (fneg x) = isZero x := by
  rw [Bool.eq_iff_iff, isZero_iff, isZero_iff, absPat_fneg]

@[simp] theorem fmag_fneg (x : F64) : fmag (fneg x) = fmag x := by rw [fmag, absPat_fneg, fmag]

@[simp] theorem fval_fneg (x : F64) : fval (fneg x) = -fval x := by
  simp only [fval, signBit_fneg, fmag_fneg]
  cases signBit x <;> simp

/-! ## Which results are NaNs -/

/-- A produced NaN is quiet (40_numerics.md R47). -/
@[simp] theorem isQuietNaN_freeNaN (p : Site) : isQuietNaN (freeNaN p) = true := by
  simp only [isQuietNaN, freeNaN, beq_iff_eq]
  have : (0x7FF8000000000000 : BitVec 64).extractLsb' 51 12 = 0xFFF := by decide
  rw [BitVec.extractLsb'_or, this]
  have h : (0xFFF : BitVec 12) = BitVec.allOnes 12 := by decide
  rw [h, BitVec.or_allOnes]

theorem isNaN_of_isQuietNaN {x : F64} (h : isQuietNaN x = true) : isNaN x = true := by
  rw [isNaN_iff]
  simp only [isQuietNaN, beq_iff_eq] at h
  have h' := congrArg BitVec.toNat h
  simp only [BitVec.extractLsb'_toNat, Nat.shiftRight_eq_div_pow] at h'
  have h12 : (4095 : BitVec 12).toNat = 4095 := by decide
  rw [h12] at h'
  norm_num [infPattern] at h' ⊢
  omega

@[simp] theorem isNaN_freeNaN (p : Site) : isNaN (freeNaN p) = true := isNaN_of_isQuietNaN (isQuietNaN_freeNaN p)

theorem roundMag_le (n t : Nat) : roundMag n t ≤ infPattern := Nat.min_le_right _ _

theorem infPattern_lt : infPattern < 2 ^ 63 := by decide

theorem isNaN_withSign (s : Bool) {p : Nat} (hp : p ≤ infPattern) : isNaN (withSign s p) = false := by
  rw [← Bool.not_eq_true, isNaN_iff, absPat_withSign s (lt_of_le_of_lt hp infPattern_lt)]
  omega

@[simp] theorem isNaN_RN (s : Bool) (n t : Nat) : isNaN (RN s n t) = false := isNaN_withSign s (roundMag_le n t)

@[simp] theorem isNaN_posZero : isNaN posZero = false := by decide

/-- When a sum is a NaN: an operand is one, or two infinities cancel (40_numerics.md R43). -/
def faddIsNaN (x y : F64) : Bool :=
  isNaN x || isNaN y || (isInf x && isInf y && signBit x != signBit y)

/-- A sum that is a NaN is the free one, and no other sum mentions the site. -/
theorem fadd_cases (x y : F64) :
    (faddIsNaN x y = true ∧ ∀ p, fadd p x y = freeNaN p)
      ∨ (faddIsNaN x y = false ∧ ∃ v, isNaN v = false ∧ ∀ p, fadd p x y = v) := by
  by_cases hn : (isNaN x || isNaN y) = true
  · exact .inl ⟨by simp [faddIsNaN, hn], fun p => by rw [fadd, if_pos hn]⟩
  by_cases hi : (isInf x && isInf y && signBit x != signBit y) = true
  · exact .inl ⟨by simp only [faddIsNaN, hi, Bool.or_true], fun p => by rw [fadd, if_neg hn, if_pos hi]⟩
  refine .inr ⟨by rw [Bool.not_eq_true] at hn hi; rw [faddIsNaN, hn, hi]; rfl, ?_⟩
  simp only [Bool.or_eq_true, not_or, Bool.not_eq_true] at hn
  unfold fadd
  simp only [hn.1, hn.2, hi, Bool.or_self, Bool.false_eq_true, if_false]
  split
  · exact ⟨x, hn.1, fun _ => rfl⟩
  · split
    · exact ⟨y, hn.2, fun _ => rfl⟩
    · split
      · split
        · exact ⟨x, hn.1, fun _ => rfl⟩
        · exact ⟨posZero, isNaN_posZero, fun _ => rfl⟩
      · split
        · exact ⟨posZero, isNaN_posZero, fun _ => rfl⟩
        · exact ⟨_, isNaN_RN _ _ _, fun _ => rfl⟩

/-- When a product is a NaN: an operand is one, or an infinity meets a zero (40_numerics.md R45). -/
def fmulIsNaN (x y : F64) : Bool :=
  isNaN x || isNaN y || ((isInf x && isZero y) || (isZero x && isInf y))

/-- A product that is a NaN is the free one, and no other product mentions the site. -/
theorem fmul_cases (x y : F64) :
    (fmulIsNaN x y = true ∧ ∀ p, fmul p x y = freeNaN p)
      ∨ (fmulIsNaN x y = false ∧ ∃ v, isNaN v = false ∧ ∀ p, fmul p x y = v) := by
  by_cases hn : (isNaN x || isNaN y) = true
  · exact .inl ⟨by simp [fmulIsNaN, hn], fun p => by rw [fmul, if_pos hn]⟩
  by_cases hi : ((isInf x && isZero y) || (isZero x && isInf y)) = true
  · exact .inl ⟨by simp only [fmulIsNaN, hi, Bool.or_true], fun p => by rw [fmul, if_neg hn, if_pos hi]⟩
  refine .inr ⟨by rw [Bool.not_eq_true] at hn hi; rw [fmulIsNaN, hn, hi]; rfl, ?_⟩
  unfold fmul
  simp only [hn, hi, Bool.false_eq_true, if_false]
  split
  · exact ⟨_, isNaN_withSign _ (le_refl _), fun _ => rfl⟩
  · split
    · exact ⟨_, isNaN_withSign _ (Nat.zero_le _), fun _ => rfl⟩
    · exact ⟨_, isNaN_RN _ _ _, fun _ => rfl⟩

/-! ## Equality up to the pattern of NaNs -/

@[simp] theorem SameWord.refl (x : F64) : SameWord x x := .inl rfl

theorem SameWord.symm {x y : F64} (h : SameWord x y) : SameWord y x := by
  rcases h with h | ⟨h1, h2⟩
  · exact .inl h.symm
  · exact .inr ⟨h2, h1⟩

theorem SameWord.isNaN_eq {x y : F64} (h : SameWord x y) : isNaN x = isNaN y := by
  rcases h with h | ⟨h1, h2⟩
  · rw [h]
  · rw [h1, h2]

theorem SameWord.trans {x y z : F64} (h : SameWord x y) (h' : SameWord y z) : SameWord x z := by
  rcases h with rfl | ⟨h1, h2⟩
  · exact h'
  · exact .inr ⟨h1, h'.isNaN_eq ▸ h2⟩

/-- Same words that are no NaNs are equal. -/
theorem SameWord.eq_of_not_nan {x y : F64} (h : SameWord x y) (hx : isNaN x = false) : x = y := by
  rcases h with h | ⟨h1, _⟩
  · exact h
  · rw [hx] at h1; exact absurd h1 (by decide)

theorem fadd_nan_left {x : F64} (h : isNaN x = true) (p : Site) (y : F64) : fadd p x y = freeNaN p := by simp [fadd, h]
theorem fadd_nan_right {y : F64} (h : isNaN y = true) (p : Site) (x : F64) : fadd p x y = freeNaN p := by simp [fadd, h]
theorem fmul_nan_left {x : F64} (h : isNaN x = true) (p : Site) (y : F64) : fmul p x y = freeNaN p := by simp [fmul, h]
theorem fmul_nan_right {y : F64} (h : isNaN y = true) (p : Site) (x : F64) : fmul p x y = freeNaN p := by simp [fmul, h]

/-- A sum is the same at every site (40_numerics.md R54 item 1). -/
theorem sameWord_fadd_site (p p' : Site) (x y : F64) : SameWord (fadd p x y) (fadd p' x y) := by
  rcases fadd_cases x y with ⟨-, h⟩ | ⟨-, v, -, h⟩
  · rw [h, h]; exact .inr ⟨isNaN_freeNaN p, isNaN_freeNaN p'⟩
  · rw [h, h]; exact .refl _

theorem sameWord_fmul_site (p p' : Site) (x y : F64) : SameWord (fmul p x y) (fmul p' x y) := by
  rcases fmul_cases x y with ⟨-, h⟩ | ⟨-, v, -, h⟩
  · rw [h, h]; exact .inr ⟨isNaN_freeNaN p, isNaN_freeNaN p'⟩
  · rw [h, h]; exact .refl _

/-- `fadd` respects equality up to NaN patterns, at any two sites. -/
theorem SameWord.fadd {x x' y y' : F64} (hx : SameWord x x') (hy : SameWord y y') (p p' : Site) :
    SameWord (fadd p x y) (fadd p' x' y') := by
  rcases hx with rfl | ⟨h1, h2⟩
  · rcases hy with rfl | ⟨h1, h2⟩
    · exact sameWord_fadd_site p p' x y
    · rw [fadd_nan_right h1, fadd_nan_right h2]; exact .inr ⟨isNaN_freeNaN p, isNaN_freeNaN p'⟩
  · rw [fadd_nan_left h1, fadd_nan_left h2]; exact .inr ⟨isNaN_freeNaN p, isNaN_freeNaN p'⟩

theorem SameWord.fmul {x x' y y' : F64} (hx : SameWord x x') (hy : SameWord y y') (p p' : Site) :
    SameWord (fmul p x y) (fmul p' x' y') := by
  rcases hx with rfl | ⟨h1, h2⟩
  · rcases hy with rfl | ⟨h1, h2⟩
    · exact sameWord_fmul_site p p' x y
    · rw [fmul_nan_right h1, fmul_nan_right h2]; exact .inr ⟨isNaN_freeNaN p, isNaN_freeNaN p'⟩
  · rw [fmul_nan_left h1, fmul_nan_left h2]; exact .inr ⟨isNaN_freeNaN p, isNaN_freeNaN p'⟩

theorem SameWord.fneg {x x' : F64} (h : SameWord x x') : SameWord (fneg x) (fneg x') := by
  rcases h with rfl | ⟨h1, h2⟩
  · exact .refl _
  · exact .inr ⟨by simpa using h1, by simpa using h2⟩

/-- `fsub(x, y)` is `fadd(x, fneg(y))`, also for a NaN `y`, where both are the free NaN of the site. -/
theorem fsub_eq (p : Site) (x y : F64) : fsub p x y = fadd p x (Machine.fneg y) := by
  unfold fsub
  split
  · next h => rw [fadd_nan_right (by simpa using h)]
  · rfl

theorem SameWord.fsub {x x' y y' : F64} (hx : SameWord x x') (hy : SameWord y y') (p p' : Site) :
    SameWord (fsub p x y) (fsub p' x' y') := by
  rw [fsub_eq, fsub_eq]; exact hx.fadd hy.fneg p p'

@[simp] theorem SameSample.refl (x : Sample) : SameSample x x := ⟨.refl _, .refl _⟩

theorem SameSample.symm {x y : Sample} (h : SameSample x y) : SameSample y x := ⟨h.re.symm, h.im.symm⟩

theorem SameSample.trans {x y z : Sample} (h : SameSample x y) (h' : SameSample y z) : SameSample x z :=
  ⟨h.re.trans h'.re, h.im.trans h'.im⟩

theorem SameSample.cadd {x x' y y' : Sample} (hx : SameSample x x') (hy : SameSample y y') (p p' : Site) :
    SameSample (cadd p x y) (cadd p' x' y') := ⟨hx.re.fadd hy.re _ _, hx.im.fadd hy.im _ _⟩

theorem SameSample.csub {x x' y y' : Sample} (hx : SameSample x x') (hy : SameSample y y') (p p' : Site) :
    SameSample (csub p x y) (csub p' x' y') := ⟨hx.re.fsub hy.re _ _, hx.im.fsub hy.im _ _⟩

theorem SameSample.cmul {x x' y y' : Sample} (hx : SameSample x x') (hy : SameSample y y') (p p' : Site) :
    SameSample (cmul p x y) (cmul p' x' y') :=
  ⟨(hx.re.fmul hy.re _ _).fsub (hx.im.fmul hy.im _ _) _ _, (hx.re.fmul hy.im _ _).fadd (hx.im.fmul hy.re _ _) _ _⟩

theorem SameSample.cconj {x x' : Sample} (h : SameSample x x') : SameSample (cconj x) (cconj x') := ⟨h.re, h.im.fneg⟩

theorem SameSample.cscale {x x' : Sample} (h : SameSample x x') (p p' : Site) (n : Nat) :
    SameSample (cscale p x n) (cscale p' x' n) := ⟨h.re.fmul (.refl _) _ _, h.im.fmul (.refl _) _ _⟩

@[simp] theorem cconj_cconj (x : Sample) : cconj (cconj x) = x := by simp [cconj]

theorem SameSeq.refl (q : List Sample) : SameSeq q q := List.forall₂_same.mpr fun _ _ => .refl _

theorem SameSeq.symm {q r : List Sample} (h : SameSeq q r) : SameSeq r q := by
  induction h with
  | nil => exact .nil
  | cons h _ ih => exact .cons h.symm ih

theorem SameSeq.trans {q r u : List Sample} (h : SameSeq q r) (h' : SameSeq r u) : SameSeq q u := by
  induction h generalizing u with
  | nil => exact h'
  | cons h _ ih =>
    cases h' with
    | cons h2 ht => exact .cons (h.trans h2) (ih ht)

theorem SameSeq.length_eq {q r : List Sample} (h : SameSeq q r) : q.length = r.length := List.Forall₂.length_eq h

end Sys2Proof.Machine
end

