-- ==== Sys2Proof/Laws/Transform.lean ====
section
/-! SUPPORT. The laws of the sequence functions: the lengths they give, and that each respects equality up to the pattern
of NaNs, at any two sites. -/

namespace Sys2Proof.Machine

/-! ## Integer helpers -/

theorem isPow2_iff (n : Nat) : isPow2 n = true ↔ ∃ m, n = 2 ^ m := by
  constructor
  · intro h; exact ⟨Nat.log2 n, by simpa [isPow2] using h⟩
  · rintro ⟨m, rfl⟩; simp [isPow2]

@[simp] theorem log2_two_pow (n : Nat) : Nat.log2 (2 ^ n) = n := Nat.log2_two_pow

theorem nextPow2_isPow2 (m : Nat) : ∃ k, nextPow2 m = 2 ^ k := by
  unfold nextPow2
  split
  · exact ⟨0, rfl⟩
  · exact ⟨_, rfl⟩

theorem le_nextPow2 (m : Nat) : m ≤ nextPow2 m := by
  unfold nextPow2
  split
  · assumption
  · next h =>
    have := Nat.lt_log2_self (n := m - 1)
    omega

theorem nextPow2_le {m k : Nat} (h : m ≤ 2 ^ k) : nextPow2 m ≤ 2 ^ k := by
  unfold nextPow2
  split
  · exact Nat.one_le_two_pow
  · next h1 =>
    apply Nat.pow_le_pow_right (by decide)
    have : Nat.log2 (m - 1) < k := (Nat.log2_lt (by omega)).mpr (by omega)
    omega

/-! ## Even and odd halves -/

theorem evens_odds_length {α : Type} (n : Nat) (q : List α) (h : q.length = 2 * n) :
    (evens q).length = n ∧ (odds q).length = n := by
  induction n generalizing q with
  | zero => simp [List.length_eq_zero_iff.mp (by simpa using h), evens, odds]
  | succ n ih =>
    match q, h with
    | z :: y :: rest, h =>
      have := ih rest (by simp at h; omega)
      simp [evens, odds, this]

theorem evens_getElem? {α : Type} (q : List α) (m : Nat) : (evens q)[m]? = q[2 * m]? := by
  induction q using evens.induct generalizing m with
  | case1 => simp [evens]
  | case2 z => cases m <;> simp [evens]
  | case3 z y rest ih => cases m with
    | zero => simp [evens]
    | succ m => simp [evens, ih, Nat.mul_add]

theorem odds_getElem? {α : Type} (q : List α) (m : Nat) : (odds q)[m]? = q[2 * m + 1]? := by
  induction q using evens.induct generalizing m with
  | case1 => simp [odds]
  | case2 z => simp [odds]
  | case3 z y rest ih => cases m with
    | zero => simp [odds]
    | succ m => simp [odds, ih, Nat.mul_add]

theorem evens_map {α β : Type} (f : α → β) (q : List α) : evens (q.map f) = (evens q).map f := by
  induction q using evens.induct with
  | case1 => rfl
  | case2 z => rfl
  | case3 z y rest ih => simp [evens, ih]

theorem SameSeq.evens_odds {q r : List Sample} (h : SameSeq q r) : SameSeq (evens q) (evens r) ∧ SameSeq (odds q) (odds r) := by
  induction q using Machine.evens.induct generalizing r with
  | case1 => cases h; exact ⟨.nil, .nil⟩
  | case2 z => cases h with | cons h t => cases t; exact ⟨.cons h .nil, .nil⟩
  | case3 z y rest ih =>
    cases h with | cons h t => cases t with | cons h2 t =>
      have := ih t
      exact ⟨.cons h this.1, .cons h2 this.2⟩

/-! ## Forward -/

theorem butterflies_length (c : Config) (p : Site) (N k : Nat) (E O : List Sample) :
    (butterflies c p N k E O).length = min E.length O.length := by
  induction E generalizing k O with
  | nil => simp [butterflies]
  | cons e E ih => cases O with
    | nil => simp [butterflies]
    | cons o O => simp [butterflies, ih]

/-- Element `j` of the butterflies of a combine step. -/
theorem butterflies_getElem? (c : Config) (p : Site) (N k j : Nat) (E O : List Sample) :
    (butterflies c p N k E O)[j]? =
      E[j]?.bind fun e => O[j]?.map fun o => butterfly ((k + j) :: p) e o (twiddle c N (k + j)) := by
  induction E generalizing k j O with
  | nil => simp [butterflies]
  | cons e E ih => cases O with
    | nil => cases j <;> simp [butterflies]
    | cons o O =>
      cases j with
      | zero => simp [butterflies]
      | succ j => simp [butterflies, ih, Nat.add_assoc, Nat.add_comm 1]

theorem combine_length (c : Config) (p : Site) (N : Nat) (E O : List Sample) :
    (combine c p N E O).length = 2 * min E.length O.length := by
  simp [combine, butterflies_length]; omega

theorem forwardAt_length (c : Config) (n : Nat) (p : Site) (q : List Sample) (h : q.length = 2 ^ n) :
    (forwardAt c n p q).length = 2 ^ n := by
  induction n generalizing p q with
  | zero => simpa [forwardAt] using h
  | succ n ih =>
    have hl := evens_odds_length (2 ^ n) q (by rw [h]; ring)
    simp [forwardAt, combine_length, ih _ _ hl.1, ih _ _ hl.2]; ring

/-- `Forward` keeps the length (44_fft_ifft.md R78). -/
theorem forward_length (c : Config) (p : Site) (q : List Sample) (h : isPow2 q.length = true) :
    (forward c p q).length = q.length := by
  obtain ⟨n, hn⟩ := (isPow2_iff _).mp h
  simp [forward, hn, forwardAt_length c n p q hn]

theorem SameSeq.butterflies {E E' O O' : List Sample} (hE : SameSeq E E') (hO : SameSeq O O') (c : Config) (p p' : Site)
    (N k : Nat) :
    List.Forall₂ (fun x y : Sample × Sample => SameSample x.1 y.1 ∧ SameSample x.2 y.2)
      (butterflies c p N k E O) (butterflies c p' N k E' O') := by
  induction hE generalizing k O O' with
  | nil => simp [Machine.butterflies]
  | cons he _ ih =>
    cases hO with
    | nil => simp [Machine.butterflies]
    | cons ho hO =>
      refine .cons ?_ (ih hO (k + 1))
      have ht := (SameSample.refl (twiddle c N k)).cmul ho (0 :: k :: p) (0 :: k :: p')
      exact ⟨he.cadd ht _ _, he.csub ht _ _⟩

theorem SameSeq.append {q q' r r' : List Sample} (h : SameSeq q q') (h' : SameSeq r r') : SameSeq (q ++ r) (q' ++ r') :=
  List.rel_append h h'

theorem SameSeq.combine {E E' O O' : List Sample} (hE : SameSeq E E') (hO : SameSeq O O') (c : Config) (p p' : Site) (N : Nat) :
    SameSeq (combine c p N E O) (combine c p' N E' O') := by
  have h := hE.butterflies hO c p p' N 0
  apply SameSeq.append
  · exact List.forall₂_map_left_iff.mpr (List.forall₂_map_right_iff.mpr (h.imp fun _ _ h => h.1))
  · exact List.forall₂_map_left_iff.mpr (List.forall₂_map_right_iff.mpr (h.imp fun _ _ h => h.2))

theorem SameSeq.forwardAt {q r : List Sample} (h : SameSeq q r) (c : Config) (n : Nat) (p p' : Site) :
    SameSeq (forwardAt c n p q) (forwardAt c n p' r) := by
  induction n generalizing p p' q r with
  | zero => exact h
  | succ n ih => exact (ih h.evens_odds.1 _ _).combine (ih h.evens_odds.2 _ _) c _ _ _

/-- `Forward` respects equality up to NaN patterns, at any two sites. -/
theorem SameSeq.forward {q r : List Sample} (h : SameSeq q r) (c : Config) (p p' : Site) :
    SameSeq (forward c p q) (forward c p' r) := by
  unfold Machine.forward; rw [h.length_eq]; exact h.forwardAt c _ p p'

/-! ## Inverse, conjugate, multiply, pad -/

theorem SameSeq.map_cconj {q r : List Sample} (h : SameSeq q r) : SameSeq (q.map cconj) (r.map cconj) :=
  List.forall₂_map_left_iff.mpr (List.forall₂_map_right_iff.mpr (h.imp fun _ _ h => h.cconj))

theorem scaleSeq_length (p : Site) (n i : Nat) (q : List Sample) : (scaleSeq p n i q).length = q.length := by
  induction q generalizing i with
  | nil => rfl
  | cons z q ih => simp [scaleSeq, ih]

theorem SameSeq.scaleSeq {q r : List Sample} (h : SameSeq q r) (p p' : Site) (n i : Nat) :
    SameSeq (scaleSeq p n i q) (scaleSeq p' n i r) := by
  induction h generalizing i with
  | nil => exact .nil
  | cons h _ ih => exact .cons (h.cscale _ _ n) (ih (i + 1))

theorem inverse_length (c : Config) (p : Site) (q : List Sample) (h : isPow2 q.length = true) :
    (inverse c p q).length = q.length := by
  simp [inverse, scaleSeq_length, forward_length c _ (q.map cconj) (by simpa using h)]

/-- `Inverse` respects equality up to NaN patterns, at any two sites. -/
theorem SameSeq.inverse {q r : List Sample} (h : SameSeq q r) (c : Config) (p p' : Site) :
    SameSeq (inverse c p q) (inverse c p' r) := by
  unfold Machine.inverse; rw [h.length_eq]
  exact (h.map_cconj.forward c _ _).map_cconj.scaleSeq _ _ _ _

theorem mulLanes_length (p : Site) (i : Nat) (A B : List Sample) : (mulLanes p i A B).length = min A.length B.length := by
  induction A generalizing i B with
  | nil => simp [mulLanes]
  | cons x A ih => cases B with
    | nil => simp [mulLanes]
    | cons y B => simp [mulLanes, ih]

/-- Lane `j` of a product depends only on lane `j` of each operand (46_spectral_algebra.md R94). -/
theorem mulLanes_getElem? (p : Site) (i j : Nat) (A B : List Sample) :
    (mulLanes p i A B)[j]? = A[j]?.bind fun x => B[j]?.map fun y => cmul ((i + j) :: p) x y := by
  induction A generalizing i j B with
  | nil => simp [mulLanes]
  | cons x A ih => cases B with
    | nil => cases j <;> simp [mulLanes]
    | cons y B => cases j with
      | zero => simp [mulLanes]
      | succ j => simp [mulLanes, ih, Nat.add_assoc, Nat.add_comm 1]

theorem SameSeq.mulLanes {A A' B B' : List Sample} (hA : SameSeq A A') (hB : SameSeq B B') (p p' : Site) (i : Nat) :
    SameSeq (mulLanes p i A B) (mulLanes p' i A' B') := by
  induction hA generalizing i B B' with
  | nil => simp [Machine.mulLanes, SameSeq]
  | cons h _ ih => cases hB with
    | nil => simp [Machine.mulLanes, SameSeq]
    | cons h' hB => exact .cons (h.cmul h' _ _) (ih hB (i + 1))

theorem multiplySeq_length (p : Site) (A B : List Sample) (n : Nat) (hA : n ≤ A.length) (hB : n ≤ B.length) :
    (multiplySeq p A B n).length = n := by
  simp [multiplySeq, mulLanes_length]; omega

theorem SameSeq.take {q r : List Sample} (h : SameSeq q r) (n : Nat) : SameSeq (q.take n) (r.take n) :=
  List.forall₂_take n h

theorem SameSeq.multiplySeq {A A' B B' : List Sample} (hA : SameSeq A A') (hB : SameSeq B B') (p p' : Site) (n : Nat) :
    SameSeq (multiplySeq p A B n) (multiplySeq p' A' B' n) := (hA.take n).mulLanes (hB.take n) p p' 0

theorem padLen_isPow2 (n m : Nat) : ∃ k, padLen n m = 2 ^ k := nextPow2_isPow2 _

theorem le_padLen (n m : Nat) : 2 * max n m ≤ padLen n m := le_nextPow2 _

theorem padSeq_length (q : List Sample) (m : Nat) : (padSeq q m).length = padLen q.length m := by
  have := le_padLen q.length m
  simp [padSeq]; omega

theorem SameSeq.padSeq {q r : List Sample} (h : SameSeq q r) (m : Nat) : SameSeq (padSeq q m) (padSeq r m) := by
  unfold Machine.padSeq; rw [h.length_eq]; exact h.append (.refl _)

end Sys2Proof.Machine
end

