-- ==== Sys2Proof/Laws/Commands.lean ====
section
/-! SUPPORT. What a command can do, said once: its result as a value, the two forms of its completion, what a buffer
holds after a success, and the bounds on a result. -/

namespace Sys2Proof.Machine

/-! ## Operands -/

theorem State.seqAt_length (s : State) (p : List Nat) (b : BufIx) : (s.seqAt p b).length = s.lenOf b := by
  simp [State.seqAt]

@[simp] theorem State.operand_length (s : State) (b : BufIx) : (s.operand b).length = s.lenOf b := s.seqAt_length _ b

theorem State.seqAt_getElem? (s : State) (p : List Nat) (b : BufIx) {i : Nat} (h : i < s.lenOf b) :
    (s.seqAt p b)[i]? = some (s.sampleAt p b i) := by
  simp [State.seqAt, h]

/-- What a command reads is a sequence the buffer may be (10_state.md R13, R15). -/
theorem State.mayHold_seqAt (s : State) (p : List Nat) (b : BufIx) : s.MayHold b (s.seqAt p b) := by
  refine ⟨s.seqAt_length p b, ?_, ?_⟩ <;>
  · intro i z v hz hv
    have hi : i < s.lenOf b := s.seqAt_length p b ▸ (List.getElem?_eq_some_iff.mp hz).1
    rw [s.seqAt_getElem? p b hi] at hz
    cases hz
    exact Memory.wordAt_of_read hv p

theorem State.mayHold_operand (s : State) (b : BufIx) : s.MayHold b (s.operand b) := s.mayHold_seqAt _ b

/-- A buffer that holds `q` may be `q` only. -/
theorem State.Holds.eq_of_mayHold {s : State} {b : BufIx} {q r : List Sample} (h : s.Holds b q) (h' : s.MayHold b r) :
    r = q := by
  apply List.ext_getElem?
  intro i
  have hl : r.length = q.length := h'.len_eq.trans h.len_eq
  by_cases hi : i < q.length
  · have hq := List.getElem?_eq_getElem hi
    have hr := List.getElem?_eq_getElem (hl ▸ hi : i < r.length)
    have h1 := h'.re_eq i _ _ hr (h.re_eq i _ hq)
    have h2 := h'.im_eq i _ _ hr (h.im_eq i _ hq)
    rw [hq, hr]
    exact congrArg some (Sample.casesOn (motive := fun z => z.re = (q[i]).re → z.im = (q[i]).im → z = q[i]) _
      (fun re im h1 h2 => by cases hz : q[i]; simp_all) h1 h2)
  · rw [List.getElem?_eq_none (by omega), List.getElem?_eq_none (by omega)]

theorem State.Holds.seqAt_eq {s : State} {b : BufIx} {q : List Sample} (h : s.Holds b q) (p : List Nat) : s.seqAt p b = q :=
  h.eq_of_mayHold (s.mayHold_seqAt p b)

theorem State.Holds.mayHold {s : State} {b : BufIx} {q : List Sample} (h : s.Holds b q) : s.MayHold b q :=
  h.seqAt_eq [] ▸ s.mayHold_seqAt [] b

/-! ## The result of a command -/

/-- `Exec(i)` as a value: the result sequence with the truncation bit, or the kind raised (60_exceptions.md R139). -/
def cmdResult (i : Instr) (s : State) : CmdResult :=
  match i with
  | .pad _ a m => (padChecked s.cfg (s.operand a) m).map fun q => (q, false)
  | .fft _ a => (transformChecked (s.operand a)).map fun q => (forward s.cfg [2, s.stamp] q, false)
  | .ifft _ a => (transformChecked (s.operand a)).map fun q => (inverse s.cfg [2, s.stamp] q, false)
  | .mul _ a b l => mulResult s a b l
  | .conj _ a => (nonEmptyChecked (s.operand a)).map fun q => (conjugate q, false)
  | .conv _ a b l => convResult s a b l
  | .convir _ a b l => convirResult s a b l
  | .xcorr _ a b l => xcorrResult s a b l

/-- Every command completes with its result in its destination (60_exceptions.md R130). -/
theorem exec_eq_complete (i : Instr) (s : State) : exec i s = complete i.dest (cmdResult i s) s := by
  cases i <;> rfl

/-- What `exec` can do: success with a result, or failure with a kind; nothing else (60_exceptions.md R120). -/
theorem exec_cases (i : Instr) (s : State) :
    (∃ q t, cmdResult i s = .ok (q, t) ∧ exec i s = .next (s.succeed i.dest q t))
      ∨ (∃ k, cmdResult i s = .error k ∧ exec i s = .next (s.failWith k)) := by
  rw [exec_eq_complete]
  cases h : cmdResult i s with
  | ok r => exact .inl ⟨r.1, r.2, rfl, rfl⟩
  | error k => exact .inr ⟨k, rfl, rfl⟩

/-! ## What a success leaves -/

theorem State.succeed_holds (s : State) (d : BufIx) (q : List Sample) (t : Bool) (hq : q.length ≤ 0x10000) :
    (s.succeed d q t).Holds d q where
  len_eq := by simp
  re_eq _ _ h := Memory.read_storeSeq_re s.mem d q hq h
  im_eq _ _ h := Memory.read_storeSeq_im s.mem d q hq h

theorem State.succeed_tail (s : State) (d : BufIx) (q : List Sample) (t : Bool) (hc : s.cfg.nmax ≤ 0x10000) :
    (s.succeed d q t).TailUnspecified d q.length := by
  intro i hi hlt
  have hlt : i < s.cfg.nmax := hlt
  exact ⟨Memory.read_storeSeq_tail s.mem d q hi (by omega) (by decide),
    Memory.read_storeSeq_tail s.mem d q hi (by omega) (by decide)⟩

theorem State.succeed_onlyBufferChanged (s : State) (d : BufIx) (q : List Sample) (t : Bool) (hq : q.length ≤ 0x10000) :
    OnlyBufferChanged d s (s.succeed d q t) where
  cfg_eq := rfl
  ie_eq := rfl
  cmd_eq := rfl
  len_eq _ hb := State.lenOf_succeed_ne s q t hb
  mem_eq _ ha := Memory.read_storeSeq_outside s.mem d q hq ha
  pending_eq := rfl
  port_eq := rfl

theorem State.failWith_noBufferChanged (s : State) (k : FailKind) : NoBufferChanged s (s.failWith k) :=
  ⟨rfl, rfl, rfl, fun _ => rfl, fun _ => rfl, rfl, rfl⟩

theorem State.failWith_completed (s : State) (k : FailKind) : (s.failWith k).Completed k.code false := ⟨rfl, rfl, rfl, rfl⟩

theorem State.succeed_completed (s : State) (d : BufIx) (q : List Sample) (t : Bool) :
    (s.succeed d q t).Completed 0 t := ⟨rfl, rfl, rfl, rfl⟩

/-- A result that fits the buffer is a success (60_exceptions.md R131). -/
theorem succeeds_of_result {i : Instr} {s : State} {q : List Sample} {t : Bool} (h : cmdResult i s = .ok (q, t))
    (hc : s.cfg.wf = true) (hq : q.length ≤ s.cfg.nmax) : Succeeds i s q t := by
  have hn := nmax_le hc
  refine ⟨s.succeed i.dest q t, by rw [exec_eq_complete, h]; rfl, s.succeed_holds _ _ _ (by omega), s.succeed_tail _ _ _ hn,
    s.succeed_completed _ _ _, s.succeed_onlyBufferChanged _ _ _ (by omega)⟩

/-- A raised kind is a failure (60_exceptions.md R132). -/
theorem fails_of_result {i : Instr} {s : State} {k : FailKind} (h : cmdResult i s = .error k) : Fails i s k :=
  ⟨s.failWith k, by rw [exec_eq_complete, h]; rfl, s.failWith_completed k, s.failWith_noBufferChanged k⟩

/-! ## The tests of the commands -/

theorem padChecked_empty {c : Config} {q : List Sample} (m : Nat) (h : q.length = 0) :
    padChecked c q m = .error .unsupported := by simp [padChecked, h]

theorem padChecked_capacity {c : Config} {q : List Sample} {m : Nat} (h0 : q.length ≠ 0) (h : c.nmax < padLen q.length m) :
    padChecked c q m = .error .capacity := by rw [padChecked, if_neg h0, if_pos h]

theorem padChecked_fits {c : Config} {q : List Sample} {m : Nat} (h0 : q.length ≠ 0) (h : padLen q.length m ≤ c.nmax) :
    padChecked c q m = .ok (padSeq q m) := by rw [padChecked, if_neg h0, if_neg (by omega)]

/-- What `PadChecked` can answer. -/
theorem padChecked_ok {c : Config} {q r : List Sample} {m : Nat} (h : padChecked c q m = .ok r) :
    q.length ≠ 0 ∧ padLen q.length m ≤ c.nmax ∧ r = padSeq q m := by
  unfold padChecked at h
  split at h
  · cases h
  · split at h
    · cases h
    · next h0 h1 => cases h; exact ⟨h0, by omega, rfl⟩

theorem transformChecked_ok {q r : List Sample} (h : transformChecked q = .ok r) :
    q.length ≠ 0 ∧ isPow2 q.length = true ∧ r = q := by
  unfold transformChecked at h
  split at h
  · cases h
  · split at h
    · next h0 h1 => cases h; exact ⟨h0, h1, rfl⟩
    · cases h

theorem nonEmptyChecked_ok {q r : List Sample} (h : nonEmptyChecked q = .ok r) : q.length ≠ 0 ∧ r = q := by
  unfold nonEmptyChecked at h
  split at h
  · cases h
  · next h0 => cases h; exact ⟨h0, rfl⟩

/-- What `Multiply` can answer: a product over the shorter length, truncated only under the lenient policy
(46_spectral_algebra.md R96). -/
theorem multiply_ok {p : Site} {A B C : List Sample} {l t : Bool} (h : multiply p A B l = .ok (C, t)) :
    C = multiplySeq p A B (min A.length B.length) ∧ t = decide (A.length ≠ B.length) ∧ (t = true → l = true) := by
  unfold multiply at h
  split at h
  · next he => cases h; simp [he]
  · split at h
    · cases h
    · next he hl => cases h; simpa [he] using hl

theorem multiply_equal {p : Site} {A B : List Sample} (l : Bool) (h : A.length = B.length) :
    multiply p A B l = .ok (multiplySeq p A B A.length, false) := by rw [multiply, if_pos h]

theorem multiply_strict {p : Site} {A B : List Sample} (h : A.length ≠ B.length) :
    multiply p A B false = .error .lengthMismatch := by rw [multiply, if_neg h, if_pos rfl]

theorem multiply_lenient {p : Site} {A B : List Sample} (h : A.length ≠ B.length) :
    multiply p A B true = .ok (multiplySeq p A B (min A.length B.length), true) := by
  rw [multiply, if_neg h, if_neg (by decide)]

theorem multiply_ok_length {p : Site} {A B C : List Sample} {l t : Bool} (h : multiply p A B l = .ok (C, t)) :
    C.length = min A.length B.length := by
  rw [(multiply_ok h).1, multiplySeq_length _ _ _ _ (Nat.min_le_left _ _) (Nat.min_le_right _ _)]

/-- A `MUL` that names one buffer twice squares each sample, whatever words of it are specified (46_spectral_algebra.md R97). -/
theorem mulResult_self {s : State} {a : BufIx} (l : Bool) (h : s.lenOf a ≠ 0) :
    mulResult s a a l = .ok (multiplySeq [2, s.stamp] (s.operand a) (s.operand a) (s.lenOf a), false) := by
  have hc : nonEmptyChecked (s.operand a) = .ok (s.operand a) := by rw [nonEmptyChecked, if_neg (by simpa using h)]
  rw [mulResult, hc, ← s.operand_length a]
  exact multiply_equal l rfl

/-- What the tail of a composition can answer: the inverse of the product. -/
theorem multiplyInverse_ok {c : Config} {n : Nat} {FX FY q : List Sample} {l t : Bool}
    (h : multiplyInverse c n FX FY l = .ok (q, t)) :
    ∃ C, multiply [4, n] FX FY l = .ok (C, t) ∧ q = inverse c [5, n] C := by
  unfold multiplyInverse at h
  cases hm : multiply [4, n] FX FY l with
  | error k => rw [hm] at h; cases h
  | ok r => rw [hm] at h; cases h; exact ⟨r.1, rfl, rfl⟩

theorem isPow2_min {m n : Nat} (hm : isPow2 m = true) (hn : isPow2 n = true) : isPow2 (min m n) = true := by
  rcases Nat.le_total m n with h | h
  · rwa [Nat.min_eq_left h]
  · rwa [Nat.min_eq_right h]

/-- The tail of a composition on two spectra of padded lengths gives a sequence of the shorter length. -/
theorem multiplyInverse_ok_length {c : Config} {n : Nat} {FX FY q : List Sample} {l t : Bool}
    (h : multiplyInverse c n FX FY l = .ok (q, t)) (hX : isPow2 FX.length = true) (hY : isPow2 FY.length = true) :
    q.length = min FX.length FY.length := by
  obtain ⟨C, hC, rfl⟩ := multiplyInverse_ok h
  have hl := multiply_ok_length hC
  rw [inverse_length _ _ _ (by rw [hl]; exact isPow2_min hX hY), hl]

/-- A padded sequence and its spectrum have the padded length, a power of two within the capacity (47_convolution_correlation.md
R100). -/
theorem padChecked_ok_spectrum {c : Config} {q r : List Sample} {m : Nat} (h : padChecked c q m = .ok r) (p : Site) :
    (forward c p r).length = padLen q.length m ∧ isPow2 (padLen q.length m) = true ∧ padLen q.length m ≤ c.nmax
      ∧ 1 ≤ padLen q.length m := by
  obtain ⟨h0, hle, rfl⟩ := padChecked_ok h
  have hp : isPow2 (padLen q.length m) = true := (isPow2_iff _).mpr (padLen_isPow2 _ _)
  have := le_padLen q.length m
  refine ⟨?_, hp, hle, by omega⟩
  rw [forward_length _ _ _ (by rw [padSeq_length]; exact hp), padSeq_length]

theorem except_map_ok {ε α β : Type} {x : Except ε α} {f : α → β} {y : β} (h : x.map f = .ok y) :
    ∃ a, x = .ok a ∧ y = f a := by
  cases x with
  | error e => cases h
  | ok a => cases h; exact ⟨a, rfl, rfl⟩

theorem except_bind_ok {ε α β : Type} {x : Except ε α} {f : α → Except ε β} {y : β} (h : (x >>= f) = .ok y) :
    ∃ a, x = .ok a ∧ f a = .ok y := by
  cases x with
  | error e => cases h
  | ok a => exact ⟨a, rfl, h⟩

/-- "Result sequence `q` (`1 <= len(q) <= NMAX`)" (60_exceptions.md R131). -/
theorem cmdResult_ok_length {i : Instr} {s : State} {q : List Sample} {t : Bool} (hlen : ∀ b, s.lenOf b ≤ s.cfg.nmax)
    (h : cmdResult i s = .ok (q, t)) : 1 ≤ q.length ∧ q.length ≤ s.cfg.nmax := by
  cases i with
  | pad d a m =>
    obtain ⟨r, hr, he⟩ := except_map_ok h
    obtain ⟨h0, hle, rfl⟩ := padChecked_ok hr
    cases he
    have := le_padLen (s.operand a).length m
    rw [padSeq_length]; omega
  | fft d a =>
    obtain ⟨r, hr, he⟩ := except_map_ok h
    obtain ⟨h0, hp, rfl⟩ := transformChecked_ok hr
    cases he
    have := hlen a
    rw [forward_length _ _ _ hp]; simp at h0 ⊢; omega
  | ifft d a =>
    obtain ⟨r, hr, he⟩ := except_map_ok h
    obtain ⟨h0, hp, rfl⟩ := transformChecked_ok hr
    cases he
    have := hlen a
    rw [inverse_length _ _ _ hp]; simp at h0 ⊢; omega
  | mul d a b l =>
    obtain ⟨A, hA, h⟩ := except_bind_ok h
    obtain ⟨B, hB, h⟩ := except_bind_ok h
    obtain ⟨hA0, rfl⟩ := nonEmptyChecked_ok hA
    obtain ⟨hB0, rfl⟩ := nonEmptyChecked_ok hB
    have ha := hlen a
    rw [multiply_ok_length h]; simp at hA0 hB0 ⊢; omega
  | conj d a =>
    obtain ⟨r, hr, he⟩ := except_map_ok h
    obtain ⟨h0, rfl⟩ := nonEmptyChecked_ok hr
    cases he
    have := hlen a
    simp [conjugate] at h0 ⊢; omega
  | conv d a b l =>
    obtain ⟨X, hX, h⟩ := except_bind_ok h
    obtain ⟨Y, hY, h⟩ := except_bind_ok h
    have hx := padChecked_ok_spectrum hX [2, s.stamp]
    have hy := padChecked_ok_spectrum hY [3, s.stamp]
    rw [multiplyInverse_ok_length h (by rw [hx.1]; exact hx.2.1) (by rw [hy.1]; exact hy.2.1)]
    omega
  | convir d a b l =>
    obtain ⟨X, hX, h⟩ := except_bind_ok h
    obtain ⟨Y, hY, h⟩ := except_bind_ok h
    have hx := padChecked_ok_spectrum hX [2, s.stamp]
    have hy := padChecked_ok_spectrum hY [3, s.stamp]
    rw [multiplyInverse_ok_length h (by rw [hx.1]; exact hx.2.1) (by rw [hy.1]; exact hy.2.1)]
    omega
  | xcorr d a b l =>
    obtain ⟨X, hX, h⟩ := except_bind_ok h
    obtain ⟨Y, hY, h⟩ := except_bind_ok h
    have hx := padChecked_ok_spectrum hX [2, s.stamp]
    have hy := padChecked_ok_spectrum hY [3, s.stamp]
    have hc : (conjugate (forward s.cfg [3, s.stamp] Y)).length = (forward s.cfg [3, s.stamp] Y).length := by simp [conjugate]
    rw [multiplyInverse_ok_length h (by rw [hx.1]; exact hx.2.1) (by rw [hc, hy.1]; exact hy.2.1)]
    omega

end Sys2Proof.Machine
end

