-- ==== Sys2Proof/Laws/Step.lean ====
section
/-! SUPPORT. What a step of the machine can do, said once: the engine's completion, an event of the host, or nothing. -/

namespace Sys2Proof.Machine

/-- The engine moves exactly when a command is in flight and no host event is left to get in before it. -/
theorem engineTurn_iff (s : State) : engineTurn s = true ↔ s.busy = true ∧ (s.delay = 0 ∨ s.pending = []) := by
  simp [engineTurn, List.isEmpty_iff]

theorem step_engine {s : State} (h : engineTurn s = true) : step s = engineStep s := by simp [step, h]

theorem step_host {s : State} {op : HostOp} {rest : List HostOp} (h : engineTurn s = false) (hp : s.pending = op :: rest) :
    step s = hostStep op rest s := by simp [step, h, hp]

theorem step_idle {s : State} (h : engineTurn s = false) (hp : s.pending = []) : step s = .next s := by
  simp [step, h, hp]

theorem engineStep_command {s : State} {i : Instr} (h : s.inFlight = .command i) : engineStep s = exec i s := by
  simp [engineStep, h]

theorem engineStep_illegal {s : State} {w : Illegal} (h : s.inFlight = .illegal w) :
    engineStep s = .next (s.failWith .illegalCommand) := by simp [engineStep, h]

/-- What a step that answers a next state did. -/
theorem step_next_cases {s t : State} (h : step s = .next t) :
    (engineTurn s = true ∧ ∃ i, s.inFlight = .command i ∧ exec i s = .next t)
      ∨ (engineTurn s = true ∧ ∃ w, s.inFlight = .illegal w ∧ t = s.failWith .illegalCommand)
      ∨ (engineTurn s = false ∧ s.pending = [] ∧ t = s)
      ∨ (engineTurn s = false ∧ ∃ op rest, s.pending = op :: rest ∧ hostStep op rest s = .next t) := by
  cases ht : engineTurn s with
  | true =>
    rw [step_engine ht] at h
    cases hd : s.inFlight with
    | command i => rw [engineStep_command hd] at h; exact .inl ⟨rfl, i, rfl, h⟩
    | illegal w => rw [engineStep_illegal hd] at h; cases h; exact .inr (.inl ⟨rfl, w, rfl, rfl⟩)
  | false =>
    cases hp : s.pending with
    | nil => rw [step_idle ht hp] at h; cases h; exact .inr (.inr (.inl ⟨rfl, rfl, rfl⟩))
    | cons op rest => rw [step_host ht hp] at h; exact .inr (.inr (.inr ⟨rfl, op, rest, rfl, h⟩))

/-- The state in which a host event takes place: the event is off the list, and one event fewer can get in before the
completion. -/
def State.taken (s : State) (rest : List HostOp) : State := { s with pending := rest, delay := s.delay - 1 }

@[simp] theorem State.taken_cfg (s : State) (rest : List HostOp) : (s.taken rest).cfg = s.cfg := rfl
@[simp] theorem State.taken_ie (s : State) (rest : List HostOp) : (s.taken rest).ie = s.ie := rfl
@[simp] theorem State.taken_busy (s : State) (rest : List HostOp) : (s.taken rest).busy = s.busy := rfl
@[simp] theorem State.taken_done (s : State) (rest : List HostOp) : (s.taken rest).done = s.done := rfl
@[simp] theorem State.taken_trunc (s : State) (rest : List HostOp) : (s.taken rest).trunc = s.trunc := rfl
@[simp] theorem State.taken_err (s : State) (rest : List HostOp) : (s.taken rest).err = s.err := rfl
@[simp] theorem State.taken_cmd (s : State) (rest : List HostOp) : (s.taken rest).cmd = s.cmd := rfl
@[simp] theorem State.taken_len (s : State) (rest : List HostOp) : (s.taken rest).len = s.len := rfl
@[simp] theorem State.taken_mem (s : State) (rest : List HostOp) : (s.taken rest).mem = s.mem := rfl
@[simp] theorem State.taken_stamp (s : State) (rest : List HostOp) : (s.taken rest).stamp = s.stamp := rfl
@[simp] theorem State.taken_pending (s : State) (rest : List HostOp) : (s.taken rest).pending = rest := rfl
@[simp] theorem State.taken_delay (s : State) (rest : List HostOp) : (s.taken rest).delay = s.delay - 1 := rfl
@[simp] theorem State.taken_port (s : State) (rest : List HostOp) : (s.taken rest).port = s.port := rfl

theorem target_taken (s : State) (rest : List HostOp) (a : HostAddr) : target (s.taken rest).cfg a = target s.cfg a := rfl

theorem refusedRead_taken (s : State) (rest : List HostOp) (a : HostAddr) :
    refusedRead (s.taken rest) a = refusedRead s a := rfl

theorem refusedWrite_taken (s : State) (rest : List HostOp) (a : HostAddr) (v : Word) :
    refusedWrite (s.taken rest) a v = refusedWrite s a v := rfl

/-- What a host event can do: a read is answered and nothing else changes (a `WAIT` may stay pending), a write is answered
after its effect, or the block is reset. -/
theorem hostStep_next_cases {op : HostOp} {rest : List HostOp} {s t : State} (h : hostStep op rest s = .next t) :
    (∃ addr, (op = .memRead addr ∨ op = .rd addr ∨ (op = .wait ∧ addr = addrStatus ∧ s.busy = false))
        ∧ t = hostRead (s.taken rest) addr)
      ∨ (op = .wait ∧ s.busy = true ∧ t = { hostRead (s.taken rest) addrStatus with pending := .wait :: rest })
      ∨ (∃ addr v, (op = .memWrite addr v ∨ op = .wr addr v) ∧ t = hostWrite (s.taken rest) addr v)
      ∨ (op = .reset ∧ t = (s.taken rest).doReset) := by
  cases op with
  | memRead addr => cases h; exact .inl ⟨addr, .inl rfl, rfl⟩
  | memWrite addr v => cases h; exact .inr (.inr (.inl ⟨addr, v, .inl rfl, rfl⟩))
  | rd addr =>
    simp only [hostStep] at h
    split at h
    · cases h; exact .inl ⟨addr, .inr (.inl rfl), rfl⟩
    · cases h
  | wr addr v =>
    simp only [hostStep] at h
    split at h
    · cases h; exact .inr (.inr (.inl ⟨addr, v, .inr rfl, rfl⟩))
    · cases h
  | wait =>
    simp only [hostStep] at h
    split at h
    · next hb => cases h; exact .inr (.inl ⟨rfl, hb, rfl⟩)
    · next hb => cases h; exact .inl ⟨addrStatus, .inr (.inr ⟨rfl, rfl, by simpa using hb⟩), rfl⟩
  | reset => cases h; exact .inr (.inr (.inr ⟨rfl, rfl⟩))

/-- What a write transaction can do: it is refused and changes nothing, or it sets `CTRL.IE`, clears or keeps `DONE`,
issues a command, sets a length within the capacity, or stores one populated word, the engine idle (20_memory.md R31, R32,
R34). -/
theorem memWrite_cases (s : State) (addr : HostAddr) (v : Word) :
    ((memWrite s addr v).1 = .err ∧ (memWrite s addr v).2 = s)
      ∨ ((memWrite s addr v).1 = .ok ∧ s.busy = false ∧
          ((target s.cfg addr = .ctrl ∧ (memWrite s addr v).2 = { s with ie := v.getLsbD 0 })
            ∨ (target s.cfg addr = .status ∧ (memWrite s addr v).2 = { s with done := s.done && !v.getLsbD 1 })
            ∨ (target s.cfg addr = .cmd ∧ (memWrite s addr v).2 = s.issue v)
            ∨ (∃ b, target s.cfg addr = .len b ∧ v.toNat ≤ s.cfg.nmax ∧ (memWrite s addr v).2 = { s with len := s.len.set b v.toNat })
            ∨ (∃ a, target s.cfg addr = .data a ∧ (memWrite s addr v).2 = { s with mem := s.mem.write a v }))) := by
  cases hb : s.busy <;> cases ht : target s.cfg addr <;> simp [memWrite, refusedWrite, applyWrite, ht, hb]
  next b =>
    by_cases hv : s.cfg.nmax < v.toNat
    · simp [hv]
    · simp only [hv, if_false]; right; refine ⟨trivial, by omega, trivial⟩

/-- What `target` calls data is a populated data address (20_memory.md R29). -/
theorem target_data_populated {c : Config} {addr : HostAddr} {a : Nat} (h : target c addr = .data a) :
    a = addr.toNat ∧ populatedData c a = true := by
  unfold target targetAt at h
  split at h
  · unfold regTarget at h; split at h <;> cases h
  · split at h
    · cases h
    · split at h
      · split at h <;> cases h
      · split at h
        · next hp => cases h; exact ⟨rfl, hp⟩
        · cases h

/-- Every populated data address is mapped as data. -/
theorem target_of_populated {c : Config} {addr : HostAddr} (h : populatedData c addr.toNat = true) :
    target c addr = .data addr.toNat := by
  have hge : 0x80000 ≤ addr.toNat := by
    simp only [populatedData, Bool.and_eq_true, decide_eq_true_eq] at h; exact h.1.1
  unfold target targetAt
  rw [if_neg (by omega), if_neg (by omega), if_neg (by omega), if_pos h]

/-- A ROM entry below `NMAX/2` is mapped as ROM (20_memory.md R29). -/
theorem target_of_rom {c : Config} {addr : HostAddr} {j e : Nat} (hj : j < c.nmax / 2) (hj' : j < 0x20000) (he : e < 2)
    (h : addr.toNat = 0x40000 + 2 * j + e) : target c addr = .rom j (decide (e = 1)) := by
  have h1 : (addr.toNat - 0x40000) / 2 = j := by omega
  have h2 : (addr.toNat % 2 = 1) = (e = 1) := by apply propext; omega
  unfold target targetAt
  rw [if_neg (by omega), if_neg (by omega), if_pos (by omega), h1, if_pos hj]
  simp only [h2]

end Sys2Proof.Machine
end

