-- ==== Sys2Proof/Laws/Invariant.lean ====
section
/-! SUPPORT. Each shared operation keeps the invariant, and what a completed command leaves of the other buffers. -/

namespace Sys2Proof.Machine

variable {s : State}

/-- A state that differs from `s` in nothing the invariant speaks of. -/
theorem State.Inv.of_eq (h : s.Inv) {t : State} (hc : t.cfg = s.cfg) (hm : t.mem = s.mem) (hl : t.len = s.len)
    (hb : t.busy = s.busy) (hd : t.done = s.done) (ht : t.trunc = s.trunc) (he : t.err = s.err) : t.Inv where
  cfg_wf := by rw [hc]; exact h.cfg_wf
  mem_wf := by rw [hc, hm]; exact h.mem_wf
  len_le b := by rw [State.lenOf, hc, hl]; exact h.len_le b
  not_busy_done := by rw [hb, hd]; exact h.not_busy_done
  trunc_ok := by rw [ht, he]; exact h.trunc_ok
  err_le := by rw [he]; exact h.err_le
  busy_clear := by rw [hb, ht, he]; exact h.busy_clear

theorem State.Inv.taken (h : s.Inv) (rest : List HostOp) : (s.taken rest).Inv := h.of_eq rfl rfl rfl rfl rfl rfl rfl

theorem State.Inv.answered (h : s.Inv) (ans : Answer) : (s.answered ans).Inv := h.of_eq rfl rfl rfl rfl rfl rfl rfl

/-- An issue keeps the invariant (20_memory.md R31). -/
theorem State.Inv.issue (h : s.Inv) (v : Word) : (s.issue v).Inv where
  cfg_wf := h.cfg_wf
  mem_wf := h.mem_wf
  len_le := h.len_le
  not_busy_done := by simp
  trunc_ok := by simp
  err_le := by simp
  busy_clear := by simp

/-- A failed completion keeps the invariant (60_exceptions.md R132). -/
theorem State.Inv.failWith (h : s.Inv) (k : FailKind) : (s.failWith k).Inv where
  cfg_wf := h.cfg_wf
  mem_wf := h.mem_wf
  len_le := h.len_le
  not_busy_done := by simp
  trunc_ok := by simp
  err_le := k.code_le
  busy_clear := by simp

/-- A successful completion with a result that fits keeps the invariant (60_exceptions.md R131). -/
theorem State.Inv.succeed (h : s.Inv) (d : BufIx) {q : List Sample} (t : Bool) (hq : q.length ≤ s.cfg.nmax) :
    (s.succeed d q t).Inv where
  cfg_wf := h.cfg_wf
  mem_wf := Memory.wf_storeSeq (nmax_le h.cfg_wf) h.mem_wf d hq
  len_le b := by
    by_cases hb : b = d
    · subst hb; simpa using hq
    · rw [State.lenOf_succeed_ne s q t hb]; exact h.len_le b
  not_busy_done := by simp
  trunc_ok := by simp
  err_le := by simp
  busy_clear := by simp

/-- The completion of a command keeps the invariant. -/
theorem State.Inv.exec (h : s.Inv) {i : Instr} {t : State} (he : exec i s = .next t) : t.Inv := by
  rcases exec_cases i s with ⟨q, tr, hr, hx⟩ | ⟨k, -, hx⟩ <;> rw [hx] at he <;> cases he
  · exact h.succeed _ _ (cmdResult_ok_length h.len_le hr).2
  · exact h.failWith k

/-- A write transaction keeps the invariant. -/
theorem State.Inv.memWrite (h : s.Inv) (addr : HostAddr) (v : Word) : (memWrite s addr v).2.Inv := by
  rcases memWrite_cases s addr v with ⟨-, he⟩ | ⟨-, hb, ⟨-, he⟩ | ⟨-, he⟩ | ⟨-, he⟩ | ⟨b, -, hv, he⟩ | ⟨a, ht, he⟩⟩ <;> rw [he]
  · exact h
  · exact h.of_eq rfl rfl rfl rfl rfl rfl rfl
  · exact ⟨h.cfg_wf, h.mem_wf, h.len_le, by simp [hb], h.trunc_ok, h.err_le, h.busy_clear⟩
  · exact h.issue v
  · refine ⟨h.cfg_wf, h.mem_wf, fun b' => ?_, h.not_busy_done, h.trunc_ok, h.err_le, h.busy_clear⟩
    simp only [State.lenOf, Lens.get_set]
    split
    · exact hv
    · exact h.len_le b'
  · exact ⟨h.cfg_wf, Memory.wf_write h.mem_wf (target_data_populated ht).2 v, h.len_le, h.not_busy_done, h.trunc_ok,
      h.err_le, h.busy_clear⟩

/-- Whatever a command does, a buffer that is not its destination holds what it held (10_state.md R16). -/
theorem State.Holds.of_onlyBufferChanged {b d : BufIx} {q : List Sample} {t : State} (h : s.Holds b q)
    (ho : OnlyBufferChanged d s t) (hb : b ≠ d) (hq : q.length ≤ 0x10000) : t.Holds b q where
  len_eq := (ho.len_eq b hb).trans h.len_eq
  re_eq i z hz := by
    have hi := (List.getElem?_eq_some_iff.mp hz).1
    rw [ho.mem_eq _ (not_inBuffer_of_ne hb (inBuffer_dataAddr b (by omega) (by decide)))]
    exact h.re_eq i z hz
  im_eq i z hz := by
    have hi := (List.getElem?_eq_some_iff.mp hz).1
    rw [ho.mem_eq _ (not_inBuffer_of_ne hb (inBuffer_dataAddr b (by omega) (by decide)))]
    exact h.im_eq i z hz

end Sys2Proof.Machine
end

