-- ==== Sys2Proof/Laws/PerInstr.lean ====
section
/-! SUPPORT. The number a command word is, and a statement about the encoding of every instruction. -/

namespace Sys2Proof

theorem field_eq (v : Word) (lo n : Nat) : field v lo n = v.toNat / 2 ^ lo % 2 ^ n := by
  simp [field, Nat.shiftRight_eq_div_pow]

theorem bufField_val (v : Word) (lo : Nat) : (bufField v lo).val = v.toNat / 2 ^ lo % 4 := by
  simp [bufField, Nat.shiftRight_eq_div_pow]

theorem fieldL_toNat (v : Word) : (fieldL v).toNat = v.toNat / 2 ^ 21 % 2 := by
  rw [fieldL, BitVec.getLsbD, Nat.testBit_eq_decide_div_mod_eq]
  have := Nat.mod_lt (v.toNat / 2 ^ 21) (show 0 < 2 by decide)
  by_cases h : v.toNat / 2 ^ 21 % 2 = 1
  · rw [decide_eq_true h]; exact h.symm
  · rw [decide_eq_false h]; show 0 = _; omega

/-- The sum of the fields, none of which reaches into the next (30_encoding.md R109, R117). -/
theorem toNat_cmdWord {opc : Nat} (d a b : BufIx) (l : Bool) {m : Nat} (ho : opc < 16) (hm : m < 2 ^ 16) :
    (cmdWord opc d a b l m).toNat
      = opc * 2 ^ 28 + d.val * 2 ^ 26 + a.val * 2 ^ 24 + b.val * 2 ^ 22 + l.toNat * 2 ^ 21 + m := by
  have := d.isLt
  have := a.isLt
  have := b.isLt
  have := Bool.toNat_le l
  rw [cmdWord, BitVec.toNat_ofNat]
  omega

theorem opcode_cmdWord {opc : Nat} (d a b : BufIx) (l : Bool) {m : Nat} (ho : opc < 16) (hm : m < 2 ^ 16) :
    field (cmdWord opc d a b l m) 28 4 = opc ∧ field (cmdWord opc d a b l m) 16 5 = 0
      ∧ field (cmdWord opc d a b l m) 32 32 = 0 := by
  have := d.isLt
  have := a.isLt
  have := b.isLt
  have := Bool.toNat_le l
  simp only [field_eq, toNat_cmdWord d a b l ho hm]
  omega

/-- The encoding of a well-formed instruction has the opcode of its family in bits 31:28, the reserved bits 20:16 zero and
the upper half zero (30_encoding.md R108, R109, R110). -/
def Laws.EncodeOpcode.Statement (i : Instr) : Prop :=
  i.wellFormed = true → field (encode i) 28 4 = i.opcode ∧ field (encode i) 16 5 = 0 ∧ field (encode i) 32 32 = 0

namespace Laws.EncodeOpcode

theorem pad (d a : BufIx) (m : Nat) : Statement (.pad d a m) := fun h =>
  opcode_cmdWord d a 0 false (by simp [Instr.opcode]) (of_decide_eq_true h)

theorem fft (d a : BufIx) : Statement (.fft d a) := fun _ => opcode_cmdWord d a 0 false (by simp [Instr.opcode]) (by decide)

theorem ifft (d a : BufIx) : Statement (.ifft d a) := fun _ => opcode_cmdWord d a 0 false (by simp [Instr.opcode]) (by decide)

theorem mul (d a b : BufIx) (l : Bool) : Statement (.mul d a b l) := fun _ =>
  opcode_cmdWord d a b l (by simp [Instr.opcode]) (by decide)

theorem conj (d a : BufIx) : Statement (.conj d a) := fun _ => opcode_cmdWord d a 0 false (by simp [Instr.opcode]) (by decide)

theorem conv (d a b : BufIx) (l : Bool) : Statement (.conv d a b l) := fun _ =>
  opcode_cmdWord d a b l (by simp [Instr.opcode]) (by decide)

theorem convir (d a b : BufIx) (l : Bool) : Statement (.convir d a b l) := fun _ =>
  opcode_cmdWord d a b l (by simp [Instr.opcode]) (by decide)

theorem xcorr (d a b : BufIx) (l : Bool) : Statement (.xcorr d a b l) := fun _ =>
  opcode_cmdWord d a b l (by simp [Instr.opcode]) (by decide)

end Laws.EncodeOpcode

end Sys2Proof
end

