-- ==== Sys2Proof/Tests/Slice0.lean ====
section
/-! SUPPORT. The model's own tests: ill-formed terms that the checks refuse, words written out from the encoding table,
one step of each command against the vectors of 95_test_vectors.md, and a witness of the hypotheses of every statement. -/

namespace Sys2Proof.Tests

open Sys2Proof.Machine

set_option maxRecDepth 10000
set_option Elab.async false

/-! ## Helpers -/

/-- A real number of a vector's list stands for the sample with imaginary part `+0` (95_test_vectors.md, notation). -/
def real (x : F64) : Sample := ⟨x, 0⟩

def n1 : F64 := 0x3FF0000000000000
def n2 : F64 := 0x4000000000000000
def n3 : F64 := 0x4008000000000000
def n4 : F64 := 0x4010000000000000

/-- A block of capacity 16 with `S0 = q0` and `S1 = q1`. -/
def held (q0 q1 : List Sample) : State := ((State.resetOf (configFor 4)).succeed 0 q0 false).succeed 1 q1 false

/-- A block of configuration `c` with lengths and no specified word. -/
def lens (c : Config) (a b : Nat) : State := { State.resetOf c with len := ⟨a, b, 0, 0⟩ }

/-- The state after the completion of `i`. -/
def after (i : Instr) (s : State) : State :=
  match exec i s with
  | .next t => t
  | .fault _ => s
  | .refused _ => s

/-- The words of a buffer up to its length. -/
def words (s : State) (b : BufIx) : List (Option Word × Option Word) :=
  (List.range (s.lenOf b)).map fun i => (s.mem.read (dataAddr b i 0), s.mem.read (dataAddr b i 1))

/-- The specified words of a list of samples. -/
def specified (q : List Sample) : List (Option Word × Option Word) := q.map fun z => (some z.re, some z.im)

/-- A busy block whose completion still lets one host event in. -/
def busyWith (v : Word) (p : List HostOp) : State := { (lens (configFor 4) 0 0).issue v with delay := 1, pending := p }

/-- An idle block with host events pending. -/
def idleWith (p : List HostOp) : State := { lens (configFor 4) 0 0 with pending := p }

/-! ## Ill-formed terms are refused -/

theorem test_wellFormed_pad_immediate :
    (Instr.pad 0 0 65535).wellFormed = true ∧ (Instr.pad 0 0 65536).wellFormed = false := by decide

theorem test_wf_config_capacity :
    (Config.mk 0 []).wf = false ∧ (Config.mk 17 []).wf = false ∧ (Config.mk 1 [czero]).wf = true := by decide

theorem test_wf_config_rom_length :
    (Config.mk 2 [czero]).wf = false ∧ (configFor 4).wf = true ∧ configDefault.wf = true := by decide +kernel

theorem test_twUnit_refuses : (Config.mk 1 [czero]).twUnit = false ∧ (configFor 4).twUnit = true := by decide +kernel

theorem test_twQuarter_refuses :
    (Config.mk 2 [⟨n1, 0⟩, ⟨n1, 0⟩]).twQuarter = false ∧ (configFor 4).twQuarter = true := by decide +kernel

theorem test_twFinite_refuses :
    (Config.mk 1 [⟨n2, 0⟩]).twFinite = false ∧ (Config.mk 1 [⟨0x7FF8000000000000, 0⟩]).twFinite = false := by decide

theorem test_cmdWordLegal_refuses :
    cmdWordLegal 0x0000000124000000 = false ∧ cmdWordLegal 0x24010000 = false ∧ cmdWordLegal 0x24400000 = false
      ∧ cmdWordLegal 0x24200000 = false ∧ cmdWordLegal 0x48400001 = false ∧ cmdWordLegal 0 = false
      ∧ cmdWordLegal 0x90000000 = false ∧ cmdWordLegal 0x24000000 = true := by decide

/-! ## Decoding: words written out from 30_encoding.md R109, R110 and 95_test_vectors.md V16 -/

theorem test_decode_pad : decode 0x1E00FFFF = .command (.pad 3 2 65535) ∧ decode 0x14000000 = .command (.pad 1 0 0) := by decide

/-- `OPC` 0010, `RD` 11, `RA` 11, and 24 zeros. -/
theorem test_decode_fft : decode 0b00101111000000000000000000000000 = .command (.fft 3 3) := by decide

theorem test_decode_ifft : decode 0x3A000000 = .command (.ifft 2 2) := by decide

/-- `OPC` 0100, `RD` 10, `RA` 10, `RB` 11, `L` 0, and 21 zeros; the same with `L` 1. -/
theorem test_decode_mul :
    decode 0b01001010110000000000000000000000 = .command (.mul 2 2 3 false)
      ∧ decode 0b01001010111000000000000000000000 = .command (.mul 2 2 3 true) := by decide

theorem test_decode_conj : decode 0x5F000000 = .command (.conj 3 3) := by decide

theorem test_decode_conv : decode 0x68400000 = .command (.conv 2 0 1 false) := by decide

theorem test_decode_convir : decode 0x78400000 = .command (.convir 2 0 1 false) := by decide

theorem test_decode_xcorr : decode 0x8DA00000 = .command (.xcorr 3 1 2 true) := by decide

theorem test_decode_illegal :
    decode 0x00000000 = .illegal .reservedOpcode ∧ decode 0xF0000000 = .illegal .reservedOpcode
      ∧ decode 0x24400000 = .illegal .unusedField ∧ decode 0x24200000 = .illegal .unusedField
      ∧ decode 0x24010000 = .illegal .zeroField ∧ decode 0x24000001 = .illegal .unusedField
      ∧ decode 0x1C400000 = .illegal .unusedField ∧ decode 0x48400001 = .illegal .unusedField
      ∧ decode 0x0000000124000000 = .illegal .upperHalf := by decide

/-- 95_test_vectors.md P2: the host program's words. -/
theorem test_encode : encode (.pad 3 1 3) = 0x1D000003 ∧ encode (.mul 2 2 3 false) = 0x4AC00000 ∧ encode (.conv 2 0 1 true) = 0x68600000 := by
  decide

/-! ## Numerics and the butterfly -/

/-- 43_butterfly.md R77, row 3: a fused or re-associated product gives another `t.im`. -/
theorem test_butterfly_r77 :
    butterfly [] ⟨n1, n2⟩ ⟨n3, n4⟩ (twiddle configDefault 8 1)
      = (⟨0x4017CC8A99AF5454, 0x4005A827999FCEF3⟩, ⟨0xC00F9915335EA8A8, 0x3FF4AFB0CCC0621A⟩) := by decide +kernel

/-- 95_test_vectors.md V11: overflow is silent; the magnitude 1e308 times 10. -/
theorem test_mul_overflow : fmul [] 0x7FE1CCF385EBC8A0 0x4024000000000000 = 0x7FF0000000000000 := by decide +kernel

/-- 40_numerics.md R42: ties go to even, down and up: `1 + 2^(-53)` and `1 + 3*2^(-53)`. -/
theorem test_ties_to_even :
    fadd [] n1 0x3CA0000000000000 = n1 ∧ fadd [] 0x3FF0000000000001 0x3CA0000000000000 = 0x3FF0000000000002 := by
  decide +kernel

/-- 40_numerics.md R42: gradual underflow: half the smallest normal, and half the smallest subnormal to the even zero. -/
theorem test_gradual_underflow :
    fmul [] 0x0010000000000000 0x3FE0000000000000 = 0x0008000000000000
      ∧ fmul [] 0x8000000000000001 0x3FE0000000000000 = 0x8000000000000000 := by decide +kernel

/-- 95_test_vectors.md V9. -/
theorem test_bitRev : (List.range 8).map (bitRev 3) = [0, 4, 2, 6, 1, 5, 3, 7] := by decide

/-- 95_test_vectors.md V18. -/
theorem test_twiddles :
    twiddle configDefault 16 3 = ⟨0x3FD87DE2A6AEA963, 0xBFED906BCF328D46⟩
      ∧ twiddle (configFor 4) 16 3 = ⟨0x3FD87DE2A6AEA963, 0xBFED906BCF328D46⟩
      ∧ twiddle configDefault 64 1 = ⟨0x3FEFD88DA3D12526, 0xBFB917A6BC29B42C⟩ := by decide +kernel

/-! ## The commands, one completion each (95_test_vectors.md) -/

/-- V10: in place; copied words keep their bits, a NaN's and a `-0`'s among them. -/
theorem test_pad_v10 :
    words (after (.pad 0 0 0) (held [⟨0x3FF8000000000000, 0xC000000000000000⟩, ⟨0x7FF8000000000123, 0x8000000000000000⟩] [])) 0
      = specified [⟨0x3FF8000000000000, 0xC000000000000000⟩, ⟨0x7FF8000000000123, 0x8000000000000000⟩, czero, czero] := by
  decide +kernel

/-- V8, rows 14 and 6. -/
theorem test_pad_v8 :
    (after (.pad 3 0 65535) (lens configDefault 1 0)).statusWord = 0x42
      ∧ (after (.pad 1 0 4) (lens configDefault 0 0)).statusWord = 0x32 := by decide +kernel

/-- V4. -/
theorem test_fft_v4 :
    words (after (.fft 1 0) (held [real n1, real n2, real n3, real n4] [])) 1
      = specified [⟨0x4024000000000000, 0⟩, ⟨0xC000000000000000, 0x4000000000000000⟩, ⟨0xC000000000000000, 0⟩,
          ⟨0xC000000000000000, 0xC000000000000000⟩] := by decide +kernel

/-- V7 and V8 row 3: a signalling NaN of a one-sample sequence is moved, not computed; 1023 is no power of two. -/
theorem test_fft_v7_v8 :
    words (after (.fft 1 0) (held [⟨0x7FF0000000000001, 0⟩] [])) 1 = specified [⟨0x7FF0000000000001, 0⟩]
      ∧ (after (.fft 0 0) (lens configDefault 1023 0)).statusWord = 0x12 := by decide +kernel

/-- V4, the way back: three of the four imaginary zeros are `-0`. -/
theorem test_ifft_v4 :
    words (after (.ifft 1 1) (held [] [⟨0x4024000000000000, 0⟩, ⟨0xC000000000000000, 0x4000000000000000⟩,
        ⟨0xC000000000000000, 0⟩, ⟨0xC000000000000000, 0xC000000000000000⟩])) 1
      = specified [⟨n1, negZero⟩, ⟨n2, negZero⟩, ⟨n3, posZero⟩, ⟨n4, negZero⟩] := by decide +kernel

/-- V8, row 2. -/
theorem test_ifft_v8 : (after (.ifft 1 0) (lens configDefault 6 0)).statusWord = 0x12 := by decide +kernel

/-- V11: `(1.5, -2.5) * (2, 0.5)`. -/
theorem test_mul_v11 :
    words (after (.mul 2 0 1 false) (held [⟨0x3FF8000000000000, 0xC004000000000000⟩] [⟨n2, 0x3FE0000000000000⟩])) 2
      = specified [⟨0x4011000000000000, 0xC011000000000000⟩] := by decide +kernel

/-- V11: lenient truncation and its diagnostic; the same with `L = 0` fails. -/
theorem test_mul_lenient_v11 :
    words (after (.mul 2 0 1 true) (held [real n1, real n2, real n3, real n4] [real 0x4014000000000000, real 0x4018000000000000])) 2
        = specified [real 0x4014000000000000, real 0x4028000000000000]
      ∧ (after (.mul 2 0 1 true) (lens configDefault 4 2)).statusWord = 0x06
      ∧ (after (.mul 2 0 1 false) (lens configDefault 4 2)).statusWord = 0x22 := by decide +kernel

/-- V11: zeros and infinities only lose or gain the sign. -/
theorem test_conj_v11 :
    words (after (.conj 1 0) (held [⟨n1, 0⟩, ⟨n2, n3⟩, ⟨negZero, 0xFFF0000000000000⟩] [])) 1
      = specified [⟨n1, negZero⟩, ⟨n2, 0xC008000000000000⟩, ⟨negZero, 0x7FF0000000000000⟩] := by decide +kernel

/-- V12. -/
theorem test_conv_v12 :
    words (after (.conv 2 0 1 false) (held [real n1, real n2] [real n3, real n4])) 2
      = specified [⟨n3, negZero⟩, ⟨0x4024000000000000, negZero⟩, ⟨0x4020000000000000, negZero⟩, czero] := by decide +kernel

/-- V14: the documented degradation of `CONV.L` on lengths that pad differently. -/
theorem test_conv_lenient_v14 :
    words (after (.conv 2 0 1 true) (held [real n1, real n2] [real n1, real n1, real n1, real n1, real n1])) 2
        = specified [⟨0x40087821D595156A, 0xBFFD7CA00EA587DB⟩, ⟨0x40174BCD3FA05FE2, 0xBFF6B46A270C4138⟩,
            ⟨0x4011C3EF1535754B, 0x40086677A0F292E0⟩, ⟨0x3FFAD0CB017E807A, 0x3FCB20D79E651A8C⟩]
      ∧ (after (.conv 2 0 1 true) (lens configDefault 2 5)).statusWord = 0x06 := by
  decide +kernel

/-- V15. -/
theorem test_convir_v15 :
    words (after (.convir 2 0 1 false) (held [real n1, real n2, real n3] [real n1, real n1])) 2
      = specified [⟨0x3FEFFFFFFFFFFFFE, negZero⟩, ⟨0x4007FFFFFFFFFFFF, negZero⟩, ⟨0x4014000000000000, negZero⟩,
          ⟨0x4008000000000000, negZero⟩, ⟨0x3CB0000000000000, negZero⟩, ⟨0x3CC0000000000000, negZero⟩,
          ⟨0x3CC0000000000000, negZero⟩, ⟨0xBCB0000000000000, posZero⟩] := by decide +kernel

/-- V8, rows 15, 16 and, for `CONV`, 17: the order of the tests. -/
theorem test_convir_order_v8 :
    (after (.convir 2 0 1 false) (lens configDefault 600 0)).statusWord = 0x42
      ∧ (after (.convir 2 0 1 false) (lens configDefault 0 600)).statusWord = 0x32
      ∧ (after (.conv 2 0 1 false) (lens configDefault 600 0)).statusWord = 0x42 := by decide +kernel

/-- V13: the operands of V12 with the second spectrum conjugated. -/
theorem test_xcorr_v13 :
    words (after (.xcorr 2 0 1 false) (held [real n1, real n2] [real n3, real n4])) 2
      = specified [⟨0x4026000000000000, negZero⟩, ⟨0x4018000000000000, negZero⟩, ⟨posZero, negZero⟩, ⟨n4, posZero⟩] := by
  decide +kernel

/-- V14, `XCORR.L`; V8, row 11. -/
theorem test_xcorr_lenient_v14 :
    words (after (.xcorr 2 0 1 true) (held [real n1, real n2] [real n1, real n1, real n1, real n1, real n1])) 2
        = specified [⟨0x40174BCD3FA05FE2, 0xBFF6B46A270C4138⟩, ⟨0x4011C3EF1535754B, 0x40086677A0F292E0⟩,
            ⟨0x3FFAD0CB017E807A, 0x3FCB20D79E651A90⟩, ⟨0x40087821D595156A, 0xBFFD7CA00EA587DB⟩]
      ∧ (after (.xcorr 2 0 1 false) (lens configDefault 2 5)).statusWord = 0x22 := by decide +kernel

/-! ## The step and the host port (95_test_vectors.md V8, V17, V1) -/

/-- V8, rows 24 and 25: an illegal value is accepted, fails at its completion, and reads back whole. -/
theorem test_illegal_v8 :
    (match step ((lens configDefault 0 0).issueNow 0x0000000124000000) with
      | .next t => (t.statusWord, (memRead t 0x00003).2)
      | _ => (0, 0)) = (0x52, 0x0000000124000000)
      ∧ (match step ((lens configDefault 0 0).issueNow 0x90000000) with
        | .next t => t.statusWord
        | _ => 0) = 0x52 := by decide +kernel

/-- V1, from reset with the word placed: `FFT S1, S0` on an empty buffer is `Unsupported` (V8, row 5). -/
theorem test_withFetchWord_runs :
    (match step (State.reset.withFetchWord 32 0x24000000) with
      | .next t => t.statusWord
      | _ => 0) = 0x32 := by decide +kernel

theorem test_port_reads_v17 :
    memRead State.reset 0x00000 = (.ok, 0x534453500007040A) ∧ memRead State.reset 0x00002 = (.ok, 0)
      ∧ memRead State.reset 0x00004 = (.ok, 0) ∧ (memRead State.reset 0x80000).1 = .ok
      ∧ (memRead State.reset 0x00008).1 = .err ∧ (memRead State.reset 0x80800).1 = .err
      ∧ memRead State.reset 0x40000 = (.ok, 0x3FF0000000000000) ∧ memRead State.reset 0x40201 = (.ok, 0xBFF0000000000000)
      ∧ (memRead State.reset 0x40400).1 = .err := by decide +kernel

theorem test_port_writes_v17 :
    (memWrite State.reset 0x00004 1024).2.lenOf 0 = 1024 ∧ (memWrite State.reset 0x00004 1025).1 = .err
      ∧ (memWrite State.reset 0x00000 0).1 = .err ∧ (memWrite State.reset 0x40000 0).1 = .err
      ∧ memRead (memWrite State.reset 0x00001 0xFFFFFFFFFFFFFFFF).2 0x00001 = (.ok, 1)
      ∧ memRead (memWrite State.reset 0xA0003 7).2 0xA0003 = (.ok, 7)
      ∧ (memWrite State.reset 0xA0003 7).2.mem = [(dataAddr 1 1 1, 7)] := by decide +kernel

theorem test_port_busy_v17 :
    memRead (busyWith 0x24000000 []) 0x00002 = (.ok, 0x01) ∧ memRead (busyWith 0x24000000 []) 0x00003 = (.ok, 0x24000000)
      ∧ (memRead (busyWith 0x24000000 []) 0x00004).1 = .err ∧ (memRead (busyWith 0x24000000 []) 0x80000).1 = .err
      ∧ (memWrite (busyWith 0x24000000 []) 0x00003 0x34000000).1 = .err := by decide +kernel

/-- `DONE = 1`, `ERR = 2`: only `DONE` is cleared, and only by bit 1. -/
theorem test_status_clear_v17 :
    (memWrite ((lens configDefault 0 0).failWith .lengthMismatch) 0x00002 0x2).2.statusWord = 0x20
      ∧ (memWrite ((lens configDefault 0 0).failWith .lengthMismatch) 0x00002 0xFD).2.statusWord = 0x22 := by decide +kernel

/-- 95_test_vectors.md P1: the `LOAD` and the `RUN` written out. -/
theorem test_script_p1 :
    scriptLoad 0 [real n1, real n2] = [.wr 0x80000 n1, .wr 0x80001 0, .wr 0x80002 n2, .wr 0x80003 0, .wr 0x00004 2]
      ∧ scriptRun (.fft 1 0) = [.wr 0x00003 0x24000000, .wait] := by decide

/-- A refused line of a script faults; the bare transaction goes on (30_encoding.md R118). -/
theorem test_script_fault :
    step (idleWith [.wr 0x00000 0]) = .fault (.scriptRefused .readOnly)
      ∧ (match step (idleWith [.memWrite 0x00000 0]) with
        | .next t => t.port
        | _ => none) = some (.write .err) := ⟨rfl, by decide +kernel⟩

/-! ## Witnesses: states that meet the hypotheses of the statements -/

theorem configFor4_wf : (configFor 4).wf = true := by decide +kernel

theorem configFor4_nmax : (configFor 4).nmax = 16 := rfl

theorem resetOf_inv {c : Config} (h : c.wf = true) : (State.resetOf c).Inv :=
  ⟨h, rfl, fun b => by simp [State.lenOf], by simp, by simp, by simp, by simp⟩

theorem held_inv {q0 q1 : List Sample} (h0 : q0.length ≤ 16) (h1 : q1.length ≤ 16) : (held q0 q1).Inv :=
  ((resetOf_inv configFor4_wf).succeed 0 false h0).succeed 1 false h1

theorem held_holds1 (q0 : List Sample) {q1 : List Sample} (h1 : q1.length ≤ 16) : (held q0 q1).Holds 1 q1 :=
  State.succeed_holds _ 1 q1 false (by omega)

theorem held_holds0 {q0 q1 : List Sample} (h0 : q0.length ≤ 16) (h1 : q1.length ≤ 16) : (held q0 q1).Holds 0 q0 :=
  (State.succeed_holds _ 0 q0 false (by omega)).of_onlyBufferChanged
    (State.succeed_onlyBufferChanged _ 1 q1 false (by omega)) (by decide) (by omega)

theorem lens_inv {a b : Nat} (ha : a ≤ 16) (hb : b ≤ 16) : (lens (configFor 4) a b).Inv where
  cfg_wf := configFor4_wf
  mem_wf := rfl
  len_le i := by
    show (Lens.get ⟨a, b, 0, 0⟩ i) ≤ 16
    fin_cases i <;> simp [Lens.get, ha, hb]
  not_busy_done := by simp [lens]
  trunc_ok := by simp [lens]
  err_le := by simp [lens]
  busy_clear := by simp [lens]

theorem idleWith_inv (p : List HostOp) : (idleWith p).Inv := (lens_inv (by decide) (by decide)).of_eq rfl rfl rfl rfl rfl rfl rfl

/-! Encoding. -/

theorem witness_decodeOfEncode : (Instr.pad 3 2 65535).wellFormed = true ∧ (Instr.xcorr 3 3 3 true).wellFormed = true := by decide

theorem witness_oneEncoding : decode 0x1E00FFFF = .command (.pad 3 2 65535) ∧ decode 0x8DA00000 = .command (.xcorr 3 1 2 true) := by
  decide

theorem witness_legalWords :
    (8, 0xF01FFFFF, 0x80000000) ∈ ([(1, 0xF0FF0000, 0x10000000), (2, 0xF0FFFFFF, 0x20000000), (3, 0xF0FFFFFF, 0x30000000),
        (4, 0xF01FFFFF, 0x40000000), (5, 0xF0FFFFFF, 0x50000000), (6, 0xF01FFFFF, 0x60000000),
        (7, 0xF01FFFFF, 0x70000000), (8, 0xF01FFFFF, 0x80000000)] : List (Nat × BitVec 32 × BitVec 32))
      ∧ decode 0x1E00FFFF = .command (.pad 3 2 65535)
      ∧ (∃ r, r ∈ opRows ∧ (0x1E00FFFF : BitVec 32) &&& r.mask = r.pattern) := by
  refine ⟨by decide, by decide, ⟨"PAD", 0xF0FF0000, 0x10000000⟩, by decide, by decide⟩

/-! The step. -/

theorem witness_stepRuns :
    ((lens configDefault 0 0).issueNow 0x24000000).busy = true ∧ ((lens configDefault 0 0).issueNow 0x24000000).delay = 0
      ∧ decode ((lens configDefault 0 0).issueNow 0x24000000).cmd = .command (.fft 1 0)
      ∧ ((busyWith 0x24000000 []).busy = true ∧ (busyWith 0x24000000 []).pending = []
        ∧ decode (busyWith 0x24000000 []).cmd = .command (.fft 1 0))
      ∧ decodeTableWord 32 0x24000000 = some (.fft 1 0) := by decide

/-- One value for each way of being illegal, each with one bit set where none may be. -/
theorem witness_illegal :
    ((lens configDefault 0 0).issueNow 0x90000000).busy = true ∧ ((lens configDefault 0 0).issueNow 0x90000000).delay = 0
      ∧ IllegalValue 0x0000000124000000 ∧ IllegalValue 0x00000000 ∧ IllegalValue 0x90000000 ∧ IllegalValue 0x24010000
      ∧ IllegalValue 0x24200000 ∧ IllegalValue 0x48400001 := by
  refine ⟨rfl, rfl, ?_, ?_, ?_, ?_, ?_, ?_⟩ <;> unfold IllegalValue <;> decide

theorem witness_stepKeepsInvariant : ∃ s t, State.Inv s ∧ step s = .next t :=
  ⟨idleWith [.memWrite 0x00004 16], _, idleWith_inv _, rfl⟩

theorem witness_resetInv :
    (Config.mk 1 [czero]).wf = true ∧ (Config.mk 16 (List.replicate 32768 czero)).wf = true := by
  decide +kernel

theorem witness_resetAbandons :
    (busyWith 0x24000000 [.reset]).delay ≠ 0 ∧ (busyWith 0x24000000 [.reset]).pending = .reset :: []
      ∧ (idleWith [.reset]).busy = false ∧ (idleWith [.reset]).pending = .reset :: [] := by decide

/-- A busy block whose step leaves it idle: by completion, and by reset. -/
theorem witness_endsWithoutCompleting :
    (∃ t, step ((lens (configFor 4) 0 0).issueNow 0) = .next t ∧ t.busy = false)
      ∧ (∃ t, step (busyWith 0 [.reset]) = .next t ∧ t.busy = false) := ⟨⟨_, rfl, rfl⟩, ⟨_, rfl, rfl⟩⟩

theorem witness_wait : (busyWith 0x24000000 [.wait]).pending = .wait :: [] ∧ (idleWith [.wait]).pending = .wait :: [] := by decide

theorem witness_commandEnds : (held [real n1] [real n2]).Inv := held_inv (by decide) (by decide)

theorem witness_flags_other :
    (idleWith [.memWrite 0x00001 1]).busy = false ∧ (idleWith [.memWrite 0x00001 1]).pending = .memWrite 0x00001 1 :: []
      ∧ (HostOp.memWrite 0x00001 1 ≠ .reset)
      ∧ (∀ v, HostOp.memWrite 0x00001 1 ≠ .memWrite 0x00002 v ∧ HostOp.memWrite 0x00001 1 ≠ .wr 0x00002 v
          ∧ HostOp.memWrite 0x00001 1 ≠ .memWrite 0x00003 v ∧ HostOp.memWrite 0x00001 1 ≠ .wr 0x00003 v)
      ∧ ∃ t, step (idleWith [.memWrite 0x00001 1]) = .next t :=
  ⟨rfl, rfl, by decide, fun v => by simp, _, rfl⟩

theorem witness_flags_status :
    (idleWith [.wr 0x00002 2]).busy = false ∧ (idleWith [.wr 0x00002 2]).pending = .wr 0x00002 2 :: []
      ∧ ∃ t, step (idleWith [.wr 0x00002 2]) = .next t := ⟨rfl, rfl, _, rfl⟩

/-! The host port. -/

/-- The ends of the mapped ranges of a block of capacity 16, and the first addresses past them. -/
theorem witness_refused_bounds :
    (idleWith []).cfg.wf = true
      ∧ (memRead (idleWith []) 0x00007).1 = .ok ∧ (memRead (idleWith []) 0x00008).1 = .err
      ∧ (memRead (idleWith []) 0x3FFFF).1 = .err ∧ (memRead (idleWith []) 0x40000).1 = .ok
      ∧ (memRead (idleWith []) 0x4000F).1 = .ok ∧ (memRead (idleWith []) 0x40010).1 = .err
      ∧ (memRead (idleWith []) 0x7FFFF).1 = .err ∧ (memRead (idleWith []) 0x80000).1 = .ok
      ∧ (memRead (idleWith []) 0x8001F).1 = .ok ∧ (memRead (idleWith []) 0x80020).1 = .err
      ∧ (memRead (idleWith []) 0xE001F).1 = .ok ∧ (memRead (idleWith []) 0xFFFFF).1 = .err
      ∧ (memWrite (idleWith []) 0x00007 16).1 = .ok ∧ (memWrite (idleWith []) 0x00007 17).1 = .err := by decide +kernel

theorem witness_controlReads : (busyWith 0x24000000 []).busy = true ∧ (idleWith []).busy = false := by decide

theorem witness_id : (Config.mk 1 [czero]).wf = true ∧ (Config.mk 16 (List.replicate 32768 czero)).wf = true := witness_resetInv

theorem witness_controlWrites :
    (busyWith 0 []).busy = true ∧ (7 : HostAddr).toNat < 8 ∧ (idleWith []).busy = false ∧ (2 : Word).getLsbD 1 = true ∧ (0xFD : Word).getLsbD 1 = false
      ∧ (16 : Word).toNat ≤ (idleWith []).cfg.nmax ∧ (idleWith []).cfg.nmax < (17 : Word).toNat := by decide

theorem witness_bufferWords :
    (idleWith []).cfg.wf = true ∧ (busyWith 0x24000000 []).busy = true ∧ (idleWith []).busy = false ∧ 15 < (idleWith []).cfg.nmax
      ∧ (held [real n1] []).mem.read (dataAddr 0 0 0) = some n1 := by decide +kernel

theorem witness_rom :
    (idleWith []).cfg.wf = true ∧ (idleWith []).cfg.twrom[7]? = some ⟨0xBFED906BCF328D46, 0xBFD87DE2A6AEA963⟩ := by decide +kernel

theorem witness_scriptLine :
    (idleWith [.rd 0x00000]).busy = false ∧ (memRead (idleWith [.rd 0x00000]) 0x00000).1 = .ok
      ∧ (memRead (idleWith [.rd 0x00008]) 0x00008).1 = .err ∧ (memWrite (idleWith [.wr 0x00003 0]) 0x00003 0).1 = .ok
      ∧ (memWrite (idleWith [.wr 0x00000 0]) 0x00000 0).1 = .err := by decide +kernel

theorem witness_busyLocks :
    (busyWith 0x24000000 [.memWrite 0x00003 0]).busy = true ∧ (busyWith 0x24000000 [.memWrite 0x00003 0]).delay ≠ 0
      ∧ ∃ t, step (busyWith 0x24000000 [.memWrite 0x00003 0]) = .next t := ⟨rfl, by decide, _, rfl⟩

theorem witness_interrupt :
    (∃ t, exec (.fft 1 0) (idleWith []) = .next t) ∧ (idleWith []).busy = false ∧ (2 : Word).getLsbD 1 = true
      ∧ (0 : Word).getLsbD 0 = false := ⟨⟨_, rfl⟩, rfl, rfl, rfl⟩

/-! Numerics. -/

/-- A tie (`2^53 + 1` quanta lies midway between `2^53` and `2^53 + 2`), and the two thresholds at their ends. -/
theorem witness_rounding :
    0x0020000000000001 ≤ infPattern ∧ infPattern ≤ infPattern
      ∧ |((magOf (roundMag (2 ^ 53 + 1) 0) * 2 ^ 0 : Nat) : Int) - (2 ^ 53 + 1 : Nat)|
          = |((magOf 0x0020000000000001 * 2 ^ 0 : Nat) : Int) - (2 ^ 53 + 1 : Nat)|
      ∧ 0x0020000000000001 ≠ roundMag (2 ^ 53 + 1) 0
      ∧ (2 ^ 2098 - 2 ^ 2044) * 2 ^ 0 ≤ 2 ^ 2098 - 2 ^ 2044 ∧ 2 * 1 ≤ 2 ^ 1 := by decide +kernel

theorem witness_patterns :
    isFinite 0x7FEFFFFFFFFFFFFF = true ∧ isFinite 0x0000000000000001 = true ∧ isFinite 0x8000000000000000 = true := by decide

theorem witness_add : isFinite n1 = true ∧ isFinite n2 = true ∧ fval n1 + fval n2 ≠ 0 ∧ infPattern ≤ infPattern := by
  decide +kernel

/-- Infinities of both signs, an infinity beside a finite value, zeros of both signs, and an exact zero sum. -/
theorem witness_addCases :
    isInf 0x7FF0000000000000 = true ∧ isInf 0xFFF0000000000000 = true
      ∧ signBit 0x7FF0000000000000 ≠ signBit 0xFFF0000000000000 ∧ isNaN n1 = false ∧ isInf n1 = false
      ∧ isZero posZero = true ∧ isZero negZero = true ∧ isNaN 0x7FF0000000000001 = true
      ∧ isFinite n1 = true ∧ isZero n1 = false ∧ fval n1 + fval fNegOne = 0 := by decide +kernel

/-- A tie of a sum: `1 + 2^(-53)` lies midway between `1` and the next pattern. -/
theorem witness_addTie :
    |(fmag (fadd [] n1 0x3CA0000000000000) : Int) - (fval n1 + fval 0x3CA0000000000000).natAbs|
        = |(magOf 0x3FF0000000000001 : Int) - (fval n1 + fval 0x3CA0000000000000).natAbs|
      ∧ magOf 0x3FF0000000000001 ≠ fmag (fadd [] n1 0x3CA0000000000000) := by decide +kernel

/-- A tie of a product: half of the smallest subnormal lies midway between zero and it. -/
theorem witness_mulTie :
    |((fmag (fmul [] 1 0x3FE0000000000000) * 2 ^ 1074 : Nat) : Int) - (fmag 1 * fmag 0x3FE0000000000000 : Nat)|
        = |((magOf 1 * 2 ^ 1074 : Nat) : Int) - (fmag 1 * fmag 0x3FE0000000000000 : Nat)|
      ∧ magOf 1 ≠ fmag (fmul [] 1 0x3FE0000000000000) := by decide +kernel

theorem witness_mul : isFinite n1 = true ∧ isFinite n2 = true ∧ isZero n1 = false ∧ isZero n2 = false := by decide

theorem witness_addZero : isNaN 0x7FF0000000000000 = false ∧ isZero 0x7FF0000000000000 = false := by decide

theorem witness_sub : isFinite n1 = true ∧ isNaN n1 = false ∧ isNaN 0x7FF8000000000000 = true := by decide

theorem witness_mulUnit : isNaN n1 = false ∧ isNaN 0xFFF0000000000000 = false := by decide

theorem witness_producedNaN :
    isNaN (fadd [] 0x7FF0000000000000 0xFFF0000000000000) = true ∧ isNaN (fsub [] 0x7FF0000000000000 0x7FF0000000000000) = true
      ∧ isNaN (fmul [] 0x7FF0000000000000 0) = true ∧ isNaN 0x7FF0000000000001 = true := by
  refine ⟨?_, ?_, ?_, by decide⟩
  · have h : fadd [] 0x7FF0000000000000 0xFFF0000000000000 = freeNaN [] := rfl
    rw [h, isNaN_freeNaN]
  · have h : fsub [] 0x7FF0000000000000 0x7FF0000000000000 = freeNaN [] := rfl
    rw [h, isNaN_freeNaN]
  · have h : fmul [] 0x7FF0000000000000 0 = freeNaN [] := rfl
    rw [h, isNaN_freeNaN]

theorem witness_complex : 16 ≤ 16 ∧ isNaN (real n1).re = false ∧ isNaN (real n1).im = false := by decide

theorem witness_scaling : isFinite 0x0000000000000001 = true ∧ isZero 0x0000000000000001 = false ∧ 16 ≤ 16 := by decide

/-! Integers, padding, transforms. -/

theorem witness_integers : 1 ≤ 1 ∧ 1 ≤ 2 ^ 0 ∧ 5 ≤ 2 ^ 3 := by decide

theorem witness_padLen : 1 ≤ 1 ∧ 2 * max 1 0 ≤ 2 ^ 1 ∧ 1 ≤ 3 := by decide

theorem witness_forward :
    isPow2 [czero, czero].length = true ∧ [czero, czero].length = 2 ^ (0 + 1) ∧ 0 < 2 ^ 0 := by decide

theorem witness_iterative : isPow2 [czero, czero, czero, czero].length = true := by decide

theorem witness_bitRev : 7 < 2 ^ 3 ∧ 2 < 3 ∧ 0 < 2 ^ 0 := by decide

theorem witness_capacity :
    (configFor 3).wf = true ∧ (configFor 4).wf = true ∧ (configFor 4).log2Nmax = (configFor 3).log2Nmax + 1
      ∧ (∀ j, j < (configFor 3).nmax / 2 → (configFor 3).twrom[j]? = (configFor 4).twrom[j * 2 ^ 1]?)
      ∧ isPow2 (List.replicate 8 czero).length = true ∧ (List.replicate 8 czero).length ≤ (configFor 3).nmax := by
  refine ⟨by decide +kernel, by decide +kernel, rfl, ?_, by decide, by decide⟩
  intro j hj
  have hj : j < 4 := hj
  interval_cases j <;> decide +kernel

theorem witness_unitTwiddles : isFinite (real n1).re = true ∧ isFinite (real n1).im = true := by decide

theorem witness_inverse : isNaN n1 = false ∧ isNaN posZero = false ∧ isPow2 [real n1].length = true := by decide

/-! Commands: a block of capacity 16, each clause at the edge of its range. -/

theorem witness_pad :
    (lens (configFor 4) 0 0).Inv ∧ (lens (configFor 4) 0 0).lenOf 0 = 0
      ∧ (lens (configFor 4) 9 0).Inv ∧ (lens (configFor 4) 9 0).lenOf 0 ≠ 0
        ∧ (lens (configFor 4) 9 0).cfg.nmax < padLen ((lens (configFor 4) 9 0).lenOf 0) 0
      ∧ (lens (configFor 4) 8 0).Inv ∧ (lens (configFor 4) 8 0).lenOf 0 ≠ 0
        ∧ padLen ((lens (configFor 4) 8 0).lenOf 0) 8 ≤ (lens (configFor 4) 8 0).cfg.nmax := by
  refine ⟨lens_inv (by decide) (by decide), by decide, lens_inv (by decide) (by decide), by decide, by decide,
    lens_inv (by decide) (by decide), by decide, by decide⟩

/-- For `FFT` and `IFFT`: the empty source, a length that is no power of two, and the lengths 1 and 16. -/
theorem witness_transform :
    (lens (configFor 4) 0 0).Inv ∧ (lens (configFor 4) 0 0).lenOf 0 = 0
      ∧ (lens (configFor 4) 15 0).Inv ∧ (lens (configFor 4) 15 0).lenOf 0 ≠ 0
        ∧ (¬ ∃ n, (lens (configFor 4) 15 0).lenOf 0 = 2 ^ n)
      ∧ (lens (configFor 4) 16 1).Inv ∧ (lens (configFor 4) 16 1).lenOf 0 = 2 ^ 4 ∧ (lens (configFor 4) 16 1).lenOf 1 = 2 ^ 0 := by
  refine ⟨lens_inv (by decide) (by decide), by decide, lens_inv (by decide) (by decide), by decide, ?_,
    lens_inv (by decide) (by decide), by decide, by decide⟩
  exact fun h => absurd ((isPow2_iff _).mpr h) (by decide)

theorem witness_mulClauses :
    (lens (configFor 4) 0 3).Inv ∧ (lens (configFor 4) 0 3).lenOf 0 = 0 ∧ (lens (configFor 4) 3 0).lenOf 1 = 0
      ∧ (lens (configFor 4) 4 2).Inv ∧ (lens (configFor 4) 4 2).lenOf 0 ≠ 0 ∧ (lens (configFor 4) 4 2).lenOf 1 ≠ 0
        ∧ (lens (configFor 4) 4 2).lenOf 0 ≠ (lens (configFor 4) 4 2).lenOf 1
      ∧ (lens (configFor 4) 16 16).Inv ∧ (lens (configFor 4) 16 16).lenOf 0 = (lens (configFor 4) 16 16).lenOf 1 := by
  refine ⟨lens_inv (by decide) (by decide), by decide, by decide, lens_inv (by decide) (by decide), by decide, by decide, by decide,
    lens_inv (by decide) (by decide), by decide⟩

/-- One buffer named twice, with no word of it specified: the clause `a = b` of the commands with two sources. -/
theorem witness_oneBuffer :
    (lens (configFor 4) 8 0).Inv ∧ (lens (configFor 4) 8 0).lenOf 0 ≠ 0 ∧ (0 : BufIx) = 0
      ∧ padLen ((lens (configFor 4) 8 0).lenOf 0) 0 ≤ (lens (configFor 4) 8 0).cfg.nmax
      ∧ (lens (configFor 4) 8 0).mem.read (dataAddr 0 0 0) = none := by
  refine ⟨lens_inv (by decide) (by decide), by decide, rfl, by decide, rfl⟩

theorem witness_conj :
    (lens (configFor 4) 0 16).Inv ∧ (lens (configFor 4) 0 16).lenOf 0 = 0 ∧ (lens (configFor 4) 0 16).lenOf 1 ≠ 0 :=
  ⟨lens_inv (by decide) (by decide), by decide, by decide⟩

/-- For `CONV` and `XCORR`, in the order of the clauses: first source empty; first too long; second empty; second too long;
padded lengths 4 and 16; padded lengths 16 and 16. -/
theorem witness_convClauses :
    (lens (configFor 4) 0 9).Inv ∧ (lens (configFor 4) 0 9).lenOf 0 = 0
      ∧ (lens (configFor 4) 9 0).Inv ∧ (lens (configFor 4) 9 0).cfg.nmax < padLen ((lens (configFor 4) 9 0).lenOf 0) 0
      ∧ (lens (configFor 4) 8 0).Inv ∧ padLen ((lens (configFor 4) 8 0).lenOf 0) 0 ≤ (lens (configFor 4) 8 0).cfg.nmax
        ∧ (lens (configFor 4) 8 0).lenOf 1 = 0
      ∧ (lens (configFor 4) 8 9).Inv ∧ (lens (configFor 4) 8 9).cfg.nmax < padLen ((lens (configFor 4) 8 9).lenOf 1) 0
      ∧ (lens (configFor 4) 2 5).Inv
        ∧ padLen ((lens (configFor 4) 2 5).lenOf 0) 0 ≠ padLen ((lens (configFor 4) 2 5).lenOf 1) 0
        ∧ padLen ((lens (configFor 4) 2 5).lenOf 1) 0 ≤ (lens (configFor 4) 2 5).cfg.nmax
      ∧ (lens (configFor 4) 5 8).Inv
        ∧ padLen ((lens (configFor 4) 5 8).lenOf 0) 0 = padLen ((lens (configFor 4) 5 8).lenOf 1) 0 := by
  refine ⟨lens_inv (by decide) (by decide), by decide, lens_inv (by decide) (by decide), by decide,
    lens_inv (by decide) (by decide), by decide, by decide, lens_inv (by decide) (by decide), by decide,
    lens_inv (by decide) (by decide), by decide, by decide, lens_inv (by decide) (by decide), by decide⟩

/-- For `CONVIR`, in the order of the clauses: first source empty; shared length too long although the second is empty;
second empty; the longest that fits; equal lengths. -/
theorem witness_convirClauses :
    (lens (configFor 4) 0 9).Inv ∧ (lens (configFor 4) 0 9).lenOf 0 = 0
      ∧ (lens (configFor 4) 9 0).Inv
        ∧ (lens (configFor 4) 9 0).cfg.nmax < nextPow2 (2 * max ((lens (configFor 4) 9 0).lenOf 0) ((lens (configFor 4) 9 0).lenOf 1))
      ∧ (lens (configFor 4) 8 0).Inv ∧ (lens (configFor 4) 8 0).lenOf 1 = 0
        ∧ nextPow2 (2 * max ((lens (configFor 4) 8 0).lenOf 0) ((lens (configFor 4) 8 0).lenOf 1)) ≤ (lens (configFor 4) 8 0).cfg.nmax
      ∧ (lens (configFor 4) 1 8).Inv ∧ (lens (configFor 4) 1 8).lenOf 1 ≠ 0
        ∧ nextPow2 (2 * max ((lens (configFor 4) 1 8).lenOf 0) ((lens (configFor 4) 1 8).lenOf 1)) ≤ (lens (configFor 4) 1 8).cfg.nmax
      ∧ (lens (configFor 4) 3 3).Inv ∧ (lens (configFor 4) 3 3).lenOf 0 = (lens (configFor 4) 3 3).lenOf 1 := by
  refine ⟨lens_inv (by decide) (by decide), by decide, lens_inv (by decide) (by decide), by decide,
    lens_inv (by decide) (by decide), by decide, by decide, lens_inv (by decide) (by decide), by decide, by decide,
    lens_inv (by decide) (by decide), by decide⟩

/-- A success and a failure. -/
theorem witness_changesOnlyDestination :
    (held [real n1] []).Inv ∧ (∃ t, exec (.fft 1 0) (held [real n1] []) = .next t ∧ t.err = 0)
      ∧ (∃ t, exec (.fft 0 1) (held [real n1] []) = .next t ∧ t.err ≠ 0) :=
  ⟨held_inv (by decide) (by decide), ⟨_, rfl, by decide +kernel⟩, ⟨_, rfl, by decide +kernel⟩⟩

/-- Two states that agree on the sources of `FFT S1, S0` and differ elsewhere. -/
theorem witness_sourcesOnly :
    (held [real n1] []).Inv ∧ (held [real n1] [real n2]).Inv ∧ (held [real n1] []).cfg = (held [real n1] [real n2]).cfg
      ∧ (∀ b, b ∈ (Instr.fft 1 0).sources → ∃ q, (held [real n1] []).Holds b q ∧ (held [real n1] [real n2]).Holds b q)
      ∧ (∃ t, exec (.fft 1 0) (held [real n1] []) = .next t) ∧ ∃ t', exec (.fft 1 0) (held [real n1] [real n2]) = .next t' := by
  refine ⟨held_inv (by decide) (by decide), held_inv (by decide) (by decide), rfl, ?_, ⟨_, rfl⟩, ⟨_, rfl⟩⟩
  intro b hb
  have hb : b = 0 := by simpa [Instr.sources] using hb
  subst hb
  exact ⟨_, held_holds0 (by decide) (by decide), held_holds0 (by decide) (by decide)⟩

/-- Also for the statements about a copy by two conjugates and about zeros. -/
theorem witness_composite :
    (held [real n1] [real n2, real n3]).Inv ∧ (held [real n1] [real n2, real n3]).Holds 0 [real n1]
      ∧ (held [real n1] [real n2, real n3]).Holds 1 [real n2, real n3] ∧ (2 : BufIx) ≠ 3 ∧ (2 : BufIx) ≠ 1 ∧ [real n1] ≠ [] :=
  ⟨held_inv (by decide) (by decide), held_holds0 (by decide) (by decide), held_holds1 _ (by decide), by decide, by decide, by decide⟩

theorem witness_zeros :
    (held (List.replicate 16 czero) (List.replicate 16 czero)).Inv ∧ (16 : Nat) ≠ 0
      ∧ (held (List.replicate 16 czero) (List.replicate 16 czero)).Holds 0 (List.replicate 16 czero)
      ∧ (held (List.replicate 16 czero) (List.replicate 16 czero)).Holds 1 (List.replicate 16 czero) :=
  ⟨held_inv (by decide) (by decide), by decide, held_holds0 (by decide) (by decide), held_holds1 _ (by decide)⟩

end Sys2Proof.Tests
end

section
/-! PROOF. A command's result is a function of the command and of its sources, up to the pattern of NaNs (00_scope.md R7):
the results of two states that capture the same operands are related by `SameResult`, command by command, and related
results complete alike. -/

namespace Sys2Proof.Machine

/-! ## Results equal up to the pattern of NaNs -/

/-- Two results of commands that are the same up to NaN patterns: the same kind raised, or successes with the same
truncation bit and sequences that are the same up to NaN patterns. -/
inductive SameResult : CmdResult → CmdResult → Prop where
  | ok {q q' : List Sample} (t : Bool) (h : SameSeq q q') : SameResult (.ok (q, t)) (.ok (q', t))
  | error (k : FailKind) : SameResult (.error k) (.error k)

theorem SameResult.refl (r : CmdResult) : SameResult r r := by
  cases r with
  | ok r => exact .ok r.2 (.refl r.1)
  | error k => exact .error k

/-- After one and the same test, computations that give the same result up to NaN patterns do so together. -/
theorem SameResult.bind_test {α : Type} {f g : α → CmdResult} (x : Except FailKind α)
    (h : ∀ a, SameResult (f a) (g a)) : SameResult (x >>= f) (x >>= g) := by
  cases x with
  | ok a => exact h a
  | error k => exact .error k

/-- As `bind_test`, for a command with one source that never truncates. -/
theorem SameResult.map_test {f g : List Sample → List Sample} (x : Except FailKind (List Sample))
    (h : ∀ q, SameSeq (f q) (g q)) :
    SameResult (x.map fun q => (f q, false)) (x.map fun q => (g q, false)) := by
  cases x with
  | ok q => exact .ok false (h q)
  | error k => exact .error k

/-! ## The parts of the commands keep it -/

/-- `Multiply` respects equality up to NaN patterns, at any two sites: its test speaks of the lengths only. -/
theorem SameSeq.sameResult_multiply {A A' B B' : List Sample} (hA : SameSeq A A') (hB : SameSeq B B') (p p' : Site)
    (l : Bool) : SameResult (multiply p A B l) (multiply p' A' B' l) := by
  by_cases h : A.length = B.length
  · rw [multiply_equal l h, multiply_equal l (hA.length_eq ▸ hB.length_eq ▸ h), ← hA.length_eq]
    exact .ok false (hA.multiplySeq hB p p' _)
  · have h' : A'.length ≠ B'.length := hA.length_eq ▸ hB.length_eq ▸ h
    cases l with
    | false => rw [multiply_strict h, multiply_strict h']; exact .error _
    | true =>
      rw [multiply_lenient h, multiply_lenient h', ← hA.length_eq, ← hB.length_eq]
      exact .ok true (hA.multiplySeq hB p p' _)

theorem SameResult.bind_inverse {r r' : CmdResult} (h : SameResult r r') (c : Config) (p p' : Site) :
    SameResult (r >>= fun x => pure (inverse c p x.1, x.2)) (r' >>= fun x => pure (inverse c p' x.1, x.2)) := by
  cases h with
  | ok t h => exact .ok t (h.inverse c p p')
  | error k => exact .error k

/-- The tail of the compositions respects equality up to NaN patterns, at any two stamps. -/
theorem SameSeq.sameResult_multiplyInverse {X X' Y Y' : List Sample} (hX : SameSeq X X') (hY : SameSeq Y Y')
    (c : Config) (n n' : Nat) (l : Bool) : SameResult (multiplyInverse c n X Y l) (multiplyInverse c n' X' Y' l) :=
  (hX.sameResult_multiply hY [4, n] [4, n'] l).bind_inverse c [5, n] [5, n']

/-- A sequence has one spectrum up to NaN patterns, whatever the site. -/
theorem sameSeq_forward_site (c : Config) (p p' : Site) (q : List Sample) : SameSeq (forward c p q) (forward c p' q) :=
  (SameSeq.refl q).forward c p p'

/-- The product of two spectra, transformed back, is one result up to NaN patterns, whatever the stamp. -/
theorem sameResult_multiplyInverse_forward (c : Config) (n n' : Nat) (X Y : List Sample) (l : Bool) :
    SameResult (multiplyInverse c n (forward c [2, n] X) (forward c [3, n] Y) l)
      (multiplyInverse c n' (forward c [2, n'] X) (forward c [3, n'] Y) l) :=
  (sameSeq_forward_site c _ _ X).sameResult_multiplyInverse (sameSeq_forward_site c _ _ Y) c n n' l

/-! ## The result of a command depends on its operands only -/

/-- Two states whose buffers hold the same sequence capture the same operand (20_memory.md R39). -/
theorem State.Holds.operand_eq {s s' : State} {b : BufIx} {q : List Sample} (h : s.Holds b q) (h' : s'.Holds b q) :
    s.operand b = s'.operand b := (h.seqAt_eq _).trans (h'.seqAt_eq _).symm

/-- States that capture the same operand in a buffer give it the same length. -/
theorem lenOf_eq_of_operand_eq {s s' : State} {b : BufIx} (h : s.operand b = s'.operand b) : s.lenOf b = s'.lenOf b := by
  rw [← s.operand_length b, h, s'.operand_length b]

theorem forall_mem_pair {α : Type} {P : α → Prop} {a b : α} (h : ∀ x ∈ [a, b], P x) : P a ∧ P b :=
  ⟨h a (by simp), h b (by simp)⟩

/-- States of one configuration that capture the same operands give one result up to NaN patterns; the sites, and with
them the free patterns, differ by the stamps. -/
theorem sameResult_cmdResult {i : Instr} {s s' : State} (hc : s.cfg = s'.cfg)
    (ho : ∀ b ∈ i.sources, s.operand b = s'.operand b) : SameResult (cmdResult i s) (cmdResult i s') := by
  cases i with
  | pad d a m =>
    have ha := List.forall_mem_singleton.mp ho
    rw [cmdResult, cmdResult, hc, ha]
    exact .refl _
  | fft d a =>
    have ha := List.forall_mem_singleton.mp ho
    rw [cmdResult, cmdResult, hc, ha]
    exact .map_test _ (sameSeq_forward_site _ _ _)
  | ifft d a =>
    have ha := List.forall_mem_singleton.mp ho
    rw [cmdResult, cmdResult, hc, ha]
    exact .map_test _ fun q => (SameSeq.refl q).inverse _ _ _
  | conj d a =>
    have ha := List.forall_mem_singleton.mp ho
    rw [cmdResult, cmdResult, ha]
    exact .refl _
  | mul d a b l =>
    obtain ⟨ha, hb⟩ := forall_mem_pair ho
    rw [cmdResult, cmdResult, mulResult, mulResult, ha, hb]
    exact .bind_test _ fun A => .bind_test _ fun B => (SameSeq.refl A).sameResult_multiply (.refl B) _ _ l
  | conv d a b l =>
    obtain ⟨ha, hb⟩ := forall_mem_pair ho
    rw [cmdResult, cmdResult, convResult, convResult, hc, ha, hb]
    exact .bind_test _ fun X => .bind_test _ fun Y => sameResult_multiplyInverse_forward _ _ _ X Y l
  | convir d a b l =>
    obtain ⟨ha, hb⟩ := forall_mem_pair ho
    rw [cmdResult, cmdResult, convirResult, convirResult, hc, ha, hb, lenOf_eq_of_operand_eq ha, lenOf_eq_of_operand_eq hb]
    exact .bind_test _ fun X => .bind_test _ fun Y => sameResult_multiplyInverse_forward _ _ _ X Y l
  | xcorr d a b l =>
    obtain ⟨ha, hb⟩ := forall_mem_pair ho
    rw [cmdResult, cmdResult, xcorrResult, xcorrResult, hc, ha, hb]
    exact .bind_test _ fun X => .bind_test _ fun Y =>
      (sameSeq_forward_site _ _ _ X).sameResult_multiplyInverse (sameSeq_forward_site _ _ _ Y).map_cconj _ _ _ l

/-! ## The obligation -/

/-- A completion that succeeds leaves the result of the command in its destination, every word of it specified. -/
theorem State.Inv.holds_succeed {s : State} (h : s.Inv) {i : Instr} {q : List Sample} {t : Bool}
    (hr : cmdResult i s = .ok (q, t)) : (s.succeed i.dest q t).Holds i.dest q := by
  have hq := (cmdResult_ok_length h.len_le hr).2
  have hn := nmax_le h.cfg_wf
  exact s.succeed_holds _ _ _ (by omega)

/-- Settles O53: states that hold the same source sequences give results that are the same up to NaN patterns, and the
completion takes `ERR`, `TRUNC` and the destination from the result alone. -/
theorem resultDependsOnSourcesOnly : Obligations.ResultDependsOnSourcesOnly := by
  intro i s s' t t' hs hs' hc hsrc ht ht'
  have hsame : SameResult (cmdResult i s) (cmdResult i s') := sameResult_cmdResult hc fun b hb => by
    obtain ⟨q, hq, hq'⟩ := hsrc b hb
    exact hq.operand_eq hq'
  rw [exec_eq_complete] at ht ht'
  generalize hr : cmdResult i s = r at ht hsame
  generalize hr' : cmdResult i s' = r' at ht' hsame
  cases hsame with
  | ok tr hqq =>
    cases ht; cases ht'
    exact ⟨rfl, rfl, fun _ => ⟨_, _, hs.holds_succeed hr, hs'.holds_succeed hr', hqq⟩⟩
  | error k =>
    cases ht; cases ht'
    exact ⟨rfl, rfl, fun h => absurd h k.code_ne_zero⟩

end Sys2Proof.Machine
end

section
/-! PROOF. The state of the block (10_state.md): the invariant over every step, what reset leaves, what a host event does to
the flags of `STATUS`, the frame of all commands, and the register `ID`. -/

namespace Sys2Proof.Machine

/-! ## Configurations -/

theorem Config.wf_iff {c : Config} : c.wf = true ↔ 1 ≤ c.log2Nmax ∧ c.log2Nmax ≤ 16 ∧ c.twrom.length = c.nmax / 2 := by
  simp [Config.wf, and_assoc]

theorem configDefault_wf : configDefault.wf = true := by decide +kernel

/-! ## The invariant -/

/-- The reset state of a legal configuration has the invariant (10_state.md R27). -/
theorem State.Inv.resetOf {c : Config} (h : c.wf = true) : (State.resetOf c).Inv where
  cfg_wf := h
  mem_wf := Memory.wf_nil c
  len_le b := by simp [State.lenOf]
  not_busy_done := by simp
  trunc_ok := by simp
  err_le := by simp
  busy_clear := by simp

/-- A reset keeps the invariant: the configuration stays legal. -/
theorem State.Inv.doReset {s : State} (h : s.Inv) : s.doReset.Inv :=
  (State.Inv.resetOf h.cfg_wf).of_eq rfl rfl rfl rfl rfl rfl rfl

theorem State.Inv.hostRead {s : State} (h : s.Inv) (addr : HostAddr) : (hostRead s addr).Inv := h.answered _

/-- Every event of the host keeps the invariant. -/
theorem State.Inv.hostStep {s t : State} {op : HostOp} {rest : List HostOp} (h : s.Inv)
    (ht : hostStep op rest s = .next t) : t.Inv := by
  have h' := h.taken rest
  rcases hostStep_next_cases ht with ⟨addr, -, rfl⟩ | ⟨-, -, rfl⟩ | ⟨addr, v, -, rfl⟩ | ⟨-, rfl⟩
  · exact h'.hostRead addr
  · exact (h'.hostRead addrStatus).of_eq rfl rfl rfl rfl rfl rfl rfl
  · exact (h'.memWrite addr v).answered _
  · exact h'.doReset

/-- Settles O7: a completion, a failure of an illegal value, an idle step and every event of the host keep the invariant. -/
theorem stepKeepsInvariant : Obligations.StepKeepsInvariant := by
  intro s t h ht
  rcases step_next_cases ht with ⟨-, i, -, hx⟩ | ⟨-, w, -, rfl⟩ | ⟨-, -, rfl⟩ | ⟨-, op, rest, -, hx⟩
  · exact h.exec hx
  · exact h.failWith _
  · exact h
  · exact h.hostStep hx

/-- Settles O8: `State.Inv.resetOf` at the default configuration, which is legal, and at every legal one. -/
theorem resetMeetsInvariant : Obligations.ResetMeetsInvariant :=
  ⟨.resetOf configDefault_wf, fun _ => .resetOf⟩

/-! ## Reads of the registers after reset -/

theorem memRead_id (s : State) : memRead s 0x00000 = (.ok, idWord s.cfg) := rfl

theorem memRead_ctrl (s : State) : memRead s 0x00001 = (.ok, s.ctrlWord) := rfl

theorem memRead_status (s : State) : memRead s 0x00002 = (.ok, s.statusWord) := rfl

theorem memRead_cmd (s : State) : memRead s 0x00003 = (.ok, s.cmd) := rfl

theorem State.ctrlWord_resetOf (c : Config) : (State.resetOf c).ctrlWord = 0 := by simp [State.ctrlWord]

theorem State.statusWord_resetOf (c : Config) : (State.resetOf c).statusWord = 0 := by simp [State.statusWord]

/-- Settles O9: each register of the reset state read through the port; the size of the default ROM follows from the
default configuration being legal. -/
theorem resetLeavesTheStatedValues : Obligations.ResetLeavesTheStatedValues := by
  refine ⟨fun c => ⟨rfl, memRead_id _, ?_, ?_, memRead_cmd _, ?_, fun _ _ _ => rfl, rfl, rfl⟩, rfl, ?_, rfl⟩
  · rw [memRead_ctrl, State.ctrlWord_resetOf]
  · rw [memRead_status, State.statusWord_resetOf]
  · exact Lens.get_zero
  · exact (Config.wf_iff.mp configDefault_wf).2.2

/-! ## The register `ID` -/

/-- The four fields of a word of the layout of `ID` (10_state.md R19), high to low. -/
theorem extractLsb'_idLayout (m : BitVec 32) (v : BitVec 16) (n l : BitVec 8) :
    (m ++ (v ++ (n ++ l)) : Word).extractLsb' 32 32 = m ∧ (m ++ (v ++ (n ++ l)) : Word).extractLsb' 16 16 = v
      ∧ (m ++ (v ++ (n ++ l)) : Word).extractLsb' 8 8 = n ∧ (m ++ (v ++ (n ++ l)) : Word).extractLsb' 0 8 = l := by
  refine ⟨BitVec.extractLsb'_append_eq_left, ?_, ?_, ?_⟩
  · exact (BitVec.extractLsb'_append_eq_of_add_le (by decide)).trans BitVec.extractLsb'_append_eq_left
  · exact (BitVec.extractLsb'_append_eq_of_add_le (by decide)).trans
      ((BitVec.extractLsb'_append_eq_of_add_le (by decide)).trans BitVec.extractLsb'_append_eq_left)
  · exact (BitVec.extractLsb'_append_eq_of_add_le (by decide)).trans
      ((BitVec.extractLsb'_append_eq_of_add_le (by decide)).trans BitVec.extractLsb'_append_eq_right)

/-- Settles O16: the fields are those of the layout, `LOG2_NMAX <= 16` fits its eight bits, and a write to `ID` is refused
in every state. -/
theorem idRegisterIsTheConstant : Obligations.IdRegisterIsTheConstant := by
  refine ⟨fun c hc => ?_, rfl, fun _ _ => rfl⟩
  obtain ⟨-, hn, -⟩ := Config.wf_iff.mp hc
  obtain ⟨hm, hv, hb, hl⟩ := extractLsb'_idLayout 0x53445350 0x0007 0x04 (BitVec.ofNat 8 c.log2Nmax)
  refine ⟨hm, hv, hb, ?_⟩
  rw [idWord, hl, BitVec.toNat_ofNat, Nat.mod_eq_of_lt (by omega)]

/-! ## The flags -/

/-- The four fields of `STATUS` (10_state.md R21). -/
structure Flags where
  busy : Bool
  done : Bool
  trunc : Bool
  err : BitVec 4

/-- The fields of `STATUS` in a state. -/
def State.flags (s : State) : Flags := ⟨s.busy, s.done, s.trunc, s.err⟩

theorem State.fields_of_flags {t : State} {f : Flags} (h : t.flags = f) :
    t.busy = f.busy ∧ t.done = f.done ∧ t.trunc = f.trunc ∧ t.err = f.err := by
  subst h; exact ⟨rfl, rfl, rfl, rfl⟩

/-- Only a register stands where a register is mapped: `STATUS` and `CMD` are among the first eight words
(20_memory.md R29). -/
theorem regTarget_of_target {c : Config} {addr : HostAddr} {r : Target} (hr : r = .status ∨ r = .cmd)
    (h : target c addr = r) : regTarget addr.toNat = r := by
  unfold target targetAt at h
  split at h
  · exact h
  · exfalso
    subst h
    revert hr
    (repeat' split) <;> simp

theorem regTarget_status {a : Nat} : regTarget a = .status → a = 2 := by unfold regTarget; split <;> simp

theorem regTarget_cmd {a : Nat} : regTarget a = .cmd → a = 3 := by unfold regTarget; split <;> simp

theorem addr_of_target_status {c : Config} {addr : HostAddr} (h : target c addr = .status) : addr = addrStatus :=
  BitVec.eq_of_toNat_eq (regTarget_status (regTarget_of_target (.inl rfl) h))

theorem addr_of_target_cmd {c : Config} {addr : HostAddr} (h : target c addr = .cmd) : addr = addrCmd :=
  BitVec.eq_of_toNat_eq (regTarget_cmd (regTarget_of_target (.inr rfl) h))

/-- What a write transaction does to the flags: nothing, or a `STATUS` write clears `DONE` or keeps it, or a `CMD` write
issues a command (20_memory.md R31). -/
theorem memWrite_flags_cases (s : State) (addr : HostAddr) (v : Word) :
    (memWrite s addr v).2.flags = s.flags
      ∨ (addr = addrStatus ∧ (memWrite s addr v).2.flags = { s.flags with done := s.done && !v.getLsbD 1 })
      ∨ (addr = addrCmd ∧ (memWrite s addr v).2.flags = ⟨true, false, false, 0⟩) := by
  rcases memWrite_cases s addr v with
    ⟨-, he⟩ | ⟨-, -, ⟨-, he⟩ | ⟨ht, he⟩ | ⟨ht, he⟩ | ⟨b, -, -, he⟩ | ⟨a, -, he⟩⟩ <;> rw [he]
  · exact .inl rfl
  · exact .inl rfl
  · exact .inr (.inl ⟨addr_of_target_status ht, rfl⟩)
  · exact .inr (.inr ⟨addr_of_target_cmd ht, rfl⟩)
  · exact .inl rfl
  · exact .inl rfl

/-- The event is a write of `v` to `addr`, as a bare transaction or as a line of a script. -/
def HostOp.IsWrite (op : HostOp) (addr : HostAddr) (v : Word) : Prop := op = .memWrite addr v ∨ op = .wr addr v

/-- An event is a write to one address at most. -/
theorem HostOp.IsWrite.addr_eq {op : HostOp} {a a' : HostAddr} {v v' : Word} (h : op.IsWrite a v)
    (h' : op.IsWrite a' v') : a = a' := by
  rcases h with rfl | rfl <;> rcases h' with h' | h' <;> cases h' <;> rfl

/-- What an event of the host does to the flags: a reset clears them, a `STATUS` write clears `DONE` or keeps it, a `CMD`
write issues a command, and nothing else touches them (10_state.md R21). -/
theorem hostStep_flags_cases {s t : State} {op : HostOp} {rest : List HostOp} (h : hostStep op rest s = .next t) :
    op = .reset ∨ t.flags = s.flags
      ∨ (∃ v, op.IsWrite addrStatus v ∧ t.flags = { s.flags with done := s.done && !v.getLsbD 1 })
      ∨ (∃ v, op.IsWrite addrCmd v ∧ t.flags = ⟨true, false, false, 0⟩) := by
  rcases hostStep_next_cases h with ⟨addr, -, rfl⟩ | ⟨-, -, rfl⟩ | ⟨addr, v, hw, rfl⟩ | ⟨hr, -⟩
  · exact .inr (.inl rfl)
  · exact .inr (.inl rfl)
  · rcases memWrite_flags_cases (s.taken rest) addr v with hf | ⟨rfl, hf⟩ | ⟨rfl, hf⟩
    · exact .inr (.inl hf)
    · exact .inr (.inr (.inl ⟨v, hw, hf⟩))
    · exact .inr (.inr (.inr ⟨v, hw, hf⟩))
  · exact .inl hr

/-- The host's turn, with an event pending: the engine is idle, or events still get in before the completion. -/
theorem step_eq_hostStep {s : State} {op : HostOp} {rest : List HostOp} (hturn : s.busy = false ∨ s.delay ≠ 0)
    (hp : s.pending = op :: rest) : step s = hostStep op rest s := by
  refine step_host (Bool.eq_false_iff.mpr fun he => ?_) hp
  obtain ⟨hb, hd | hn⟩ := (engineTurn_iff s).mp he
  · simp [hb, hd] at hturn
  · simp [hp] at hn

/-- Settles O13: of the four things an event can do to the flags, the hypotheses on the event leave one in the first
clause; in the second no reset and no `CMD` write is a `STATUS` write. -/
theorem flagsChangeOnlyByIssueCompletionAndClear : Obligations.FlagsChangeOnlyByIssueCompletionAndClear := by
  constructor
  · intro s t op rest hturn hp hreset hne hs
    rw [step_eq_hostStep hturn hp] at hs
    rcases hostStep_flags_cases hs with hr | hf | ⟨v, hw, -⟩ | ⟨v, hw, -⟩
    · exact absurd hr hreset
    · exact State.fields_of_flags hf
    · obtain ⟨hm, hl, -, -⟩ := hne v
      exact absurd hw (not_or.mpr ⟨hm, hl⟩)
    · obtain ⟨-, -, hm, hl⟩ := hne v
      exact absurd hw (not_or.mpr ⟨hm, hl⟩)
  · intro s t v rest hturn hp hs
    obtain ⟨op, hw, hp⟩ : ∃ op : HostOp, op.IsWrite addrStatus v ∧ s.pending = op :: rest := by
      rcases hp with hp | hp
      · exact ⟨_, .inl rfl, hp⟩
      · exact ⟨_, .inr rfl, hp⟩
    rw [step_eq_hostStep hturn hp] at hs
    rcases hostStep_flags_cases hs with rfl | hf | ⟨w, -, hf⟩ | ⟨w, hw', -⟩
    · rcases hw with hw | hw <;> cases hw
    · obtain ⟨hb, hd, ht, he⟩ := State.fields_of_flags hf
      exact ⟨hb, ht, he, hd.symm.trans⟩
    · obtain ⟨hb, hd, ht, he⟩ := State.fields_of_flags hf
      exact ⟨hb, ht, he, fun h => (Bool.and_eq_true_iff.mp (hd.symm.trans h)).1⟩
    · exact absurd (hw.addr_eq hw') (by decide)

/-! ## Reset and completion -/

/-- Every completion leaves the engine idle with `DONE = 1` (60_exceptions.md R131, R132). -/
theorem busy_done_of_exec {i : Instr} {s t : State} (h : exec i s = .next t) : t.busy = false ∧ t.done = true := by
  rcases exec_cases i s with ⟨q, tr, -, hx⟩ | ⟨k, -, hx⟩ <;> rw [hx] at h <;> cases h
  · exact ⟨rfl, rfl⟩
  · exact ⟨rfl, rfl⟩

/-- Settles O10: a reset's turn is `doReset`, field by field; and a step that ends a command without a reset is a
completion, since no other event of the host takes `BUSY` from 1 to 0. -/
theorem resetAbandonsTheCommandInFlight : Obligations.ResetAbandonsTheCommandInFlight := by
  constructor
  · intro s rest hturn hp
    exact ⟨(s.taken rest).doReset, step_eq_hostStep hturn hp, rfl, rfl, rfl, rfl, rfl, rfl, rfl, State.lenOf_doReset _,
      fun _ _ _ => rfl, rfl, memRead_id _, rfl⟩
  · intro s t hb hs hb'
    rcases step_next_cases hs with ⟨-, i, -, hx⟩ | ⟨-, w, -, rfl⟩ | ⟨-, -, rfl⟩ | ⟨-, op, rest, hp, hx⟩
    · exact .inl (busy_done_of_exec hx).2
    · exact .inl rfl
    · exact absurd hb (by simp [hb'])
    · rcases hostStep_flags_cases hx with rfl | hf | ⟨v, -, hf⟩ | ⟨v, -, hf⟩
      · exact .inr ⟨rest, hp⟩
      · exact absurd ((State.fields_of_flags hf).1.trans hb) (by simp [hb'])
      · exact absurd ((State.fields_of_flags hf).1.trans hb) (by simp [hb'])
      · exact absurd (State.fields_of_flags hf).1 (by simp [hb'])

/-! ## The frame of the commands -/

/-- A completion that changes no buffer changes none but `d`. -/
theorem NoBufferChanged.onlyBufferChanged {s t : State} (h : NoBufferChanged s t) (d : BufIx) :
    OnlyBufferChanged d s t where
  cfg_eq := h.cfg_eq
  ie_eq := h.ie_eq
  cmd_eq := h.cmd_eq
  len_eq b _ := h.len_eq b
  mem_eq a _ := h.mem_eq a
  pending_eq := h.pending_eq
  port_eq := h.port_eq

/-- Settles O52: a success stores a result that fits the destination's region and reports `ERR = 0`; a failure changes
`STATUS` only. -/
theorem commandChangesOnlyItsDestination : Obligations.CommandChangesOnlyItsDestination := by
  intro i s t h ht
  rcases exec_cases i s with ⟨q, tr, hr, hx⟩ | ⟨k, -, hx⟩ <;> rw [hx] at ht <;> cases ht
  · have hq : q.length ≤ 0x10000 := (cmdResult_ok_length h.len_le hr).2.trans (nmax_le h.cfg_wf)
    exact ⟨s.succeed_onlyBufferChanged _ _ _ hq, rfl, rfl, fun he => absurd rfl he⟩
  · have hn := s.failWith_noBufferChanged k
    exact ⟨hn.onlyBufferChanged _, rfl, rfl, fun _ => ⟨hn, rfl⟩⟩

end Sys2Proof.Machine
end

section
/-! PROOF. The host port (20_memory.md): what stands at each word address, what a read and a write of it do, and the
transactions that are refused. -/

namespace Sys2Proof.Machine

/-! ## The address map -/

/-- The address map of 20_memory.md R29 as a relation: each mapped word with its address in arithmetic. -/
inductive StandsAt (c : Config) : Nat → Target → Prop where
  | id : StandsAt c 0 .id
  | ctrl : StandsAt c 1 .ctrl
  | status : StandsAt c 2 .status
  | cmd : StandsAt c 3 .cmd
  | len (b : BufIx) : StandsAt c (4 + b.val) (.len b)
  | rom {j e : Nat} (hj : j < c.nmax / 2) (he : e < 2) :
      StandsAt c (0x40000 + 2 * j + e) (.rom j (decide (e = 1)))
  | data (b : BufIx) {i e : Nat} (hi : i < c.nmax) (he : e < 2) :
      StandsAt c (dataAddr b i e) (.data (dataAddr b i e))
  | unmapped {a : Nat} (h : ¬ Mapped c a) : StandsAt c a .unmapped

theorem dataAddr_ge (b : BufIx) (i e : Nat) : 0x80000 ≤ dataAddr b i e := by simp only [dataAddr]; omega

theorem mapped_rom {c : Config} {j e : Nat} (hj : j < c.nmax / 2) (he : e < 2) : Mapped c (0x40000 + 2 * j + e) :=
  .inr (.inl ⟨j, hj, by omega⟩)

theorem mapped_dataAddr {c : Config} (b : BufIx) {i e : Nat} (hi : i < c.nmax) (he : e < 2) :
    Mapped c (dataAddr b i e) := by
  obtain rfl | rfl : e = 0 ∨ e = 1 := by omega
  · exact .inr (.inr ⟨b, i, hi, .inl rfl⟩)
  · exact .inr (.inr ⟨b, i, hi, .inr rfl⟩)

/-- Where a mapped address lies: a register, a ROM entry below `NMAX/2`, or a populated word of a buffer. -/
theorem Mapped.ranges {c : Config} {a : Nat} (hc : c.wf = true) (h : Mapped c a) :
    a < 8 ∨ (0x40000 ≤ a ∧ (a - 0x40000) / 2 < c.nmax / 2 ∧ a < 0x80000) ∨ (0x80000 ≤ a ∧ populatedData c a = true) := by
  have hn := nmax_le hc
  rcases h with h | ⟨j, hj, h⟩ | ⟨b, i, hi, rfl | rfl⟩
  · exact .inl (by omega)
  · exact .inr (.inl (by omega))
  · exact .inr (.inr ⟨dataAddr_ge b i 0, populatedData_dataAddr hn b hi (by decide)⟩)
  · exact .inr (.inr ⟨dataAddr_ge b i 1, populatedData_dataAddr hn b hi (by decide)⟩)

theorem standsAt_regTarget {c : Config} {a : Nat} (h : a < 8) : StandsAt c a (regTarget a) := by
  interval_cases a
  · exact .id
  · exact .ctrl
  · exact .status
  · exact .cmd
  · exact .len 0
  · exact .len 1
  · exact .len 2
  · exact .len 3

/-- The model's address map is that of R29, for a legal configuration. -/
theorem standsAt_targetAt {c : Config} (hc : c.wf = true) (a : Nat) : StandsAt c a (targetAt c a) := by
  unfold targetAt
  split
  · next h => exact standsAt_regTarget h
  split
  · exact .unmapped fun hm => by have := hm.ranges hc; omega
  split
  · split
    · next h =>
      have ha : 0x40000 + 2 * ((a - 0x40000) / 2) + a % 2 = a := by omega
      have hs : StandsAt c (0x40000 + 2 * ((a - 0x40000) / 2) + a % 2) _ := .rom h (Nat.mod_lt _ (by decide))
      rwa [ha] at hs
    · exact .unmapped fun hm => by have := hm.ranges hc; omega
  split
  · next h =>
    obtain ⟨b, i, e, hi, he, rfl⟩ := exists_dataAddr_of_populated h
    exact .data b hi he
  · next h =>
    refine .unmapped fun hm => ?_
    rcases hm.ranges hc with h' | h' | ⟨-, h'⟩
    · omega
    · omega
    · exact h h'

theorem standsAt_target {c : Config} (hc : c.wf = true) (addr : HostAddr) : StandsAt c addr.toNat (target c addr) :=
  standsAt_targetAt hc addr.toNat

theorem target_id (c : Config) : target c 0x00000 = .id := rfl
theorem target_ctrl (c : Config) : target c 0x00001 = .ctrl := rfl
theorem target_status (c : Config) : target c 0x00002 = .status := rfl
theorem target_cmd (c : Config) : target c 0x00003 = .cmd := rfl
theorem target_addrLen (c : Config) (b : BufIx) : target c (addrLen b) = .len b := by fin_cases b <;> rfl

theorem target_addrData {c : Config} (hc : c.wf = true) (b : BufIx) {i e : Nat} (hi : i < c.nmax) (he : e < 2) :
    target c (addrData b i e) = .data (dataAddr b i e) := by
  have hn := nmax_le hc
  have ha : (addrData b i e).toNat = dataAddr b i e :=
    (BitVec.toNat_ofNat _ _).trans (Nat.mod_eq_of_lt (by simp only [dataAddr]; omega))
  rw [target_of_populated (ha ▸ populatedData_dataAddr hn b hi he), ha]

/-- The real and the imaginary word of a ROM entry stand at the even and the odd address of R29. -/
theorem target_romAddr {c : Config} (hc : c.wf = true) {j e : Nat} (hj : j < c.nmax / 2) (he : e < 2) :
    target c (BitVec.ofNat 20 (0x40000 + 2 * j + e)) = .rom j (decide (e = 1)) := by
  have hn := nmax_le hc
  exact target_of_rom hj (by omega) he ((BitVec.toNat_ofNat _ _).trans (Nat.mod_eq_of_lt (by omega)))

/-! ## Reads and writes by what stands at the address -/

section Transactions

variable {s : State} {addr : HostAddr}

theorem memRead_err_iff : (memRead s addr).1 = .err ↔
    target s.cfg addr = .unmapped
      ∨ (s.busy = true ∧ ((∃ b, target s.cfg addr = .len b) ∨ ∃ a, target s.cfg addr = .data a)) := by
  cases hb : s.busy <;> cases ht : target s.cfg addr <;> simp [memRead, refusedRead, ht, hb]

theorem memWrite_err_iff {v : Word} : (memWrite s addr v).1 = .err ↔
    target s.cfg addr = .unmapped
      ∨ (target s.cfg addr = .id ∨ ∃ j im, target s.cfg addr = .rom j im)
      ∨ ((∃ b, target s.cfg addr = .len b) ∧ s.cfg.nmax < v.toNat)
      ∨ s.busy = true := by
  cases hb : s.busy <;> cases ht : target s.cfg addr <;> simp [memWrite, refusedWrite, ht, hb]
  next b => by_cases hv : s.cfg.nmax < v.toNat <;> simp [hv]

/-- A refused write changes no state (20_memory.md R34). -/
theorem memWrite_of_err {v : Word} (h : (memWrite s addr v).1 = .err) : memWrite s addr v = (.err, s) := by
  rcases memWrite_cases s addr v with ⟨-, hs⟩ | ⟨hok, -⟩
  · exact Prod.ext h hs
  · exact absurd (h.symm.trans hok) (by decide)

/-- Every write is refused while the engine is busy (20_memory.md R34, case 4). -/
theorem memWrite_busy (hb : s.busy = true) (addr : HostAddr) (v : Word) : memWrite s addr v = (.err, s) :=
  memWrite_of_err (memWrite_err_iff.mpr (.inr (.inr (.inr hb))))

theorem memRead_len_busy (hb : s.busy = true) {b : BufIx} (ht : target s.cfg addr = .len b) : (memRead s addr).1 = .err :=
  memRead_err_iff.mpr (.inr ⟨hb, .inl ⟨b, ht⟩⟩)

theorem memRead_len_idle (hb : s.busy = false) {b : BufIx} (ht : target s.cfg addr = .len b) :
    memRead s addr = (.ok, BitVec.ofNat 64 (s.lenOf b)) := by simp [memRead, refusedRead, readData, ht, hb]

theorem memRead_data_busy (hb : s.busy = true) {a : Nat} (ht : target s.cfg addr = .data a) : (memRead s addr).1 = .err :=
  memRead_err_iff.mpr (.inr ⟨hb, .inr ⟨a, ht⟩⟩)

theorem memRead_data_idle (hb : s.busy = false) {a : Nat} (ht : target s.cfg addr = .data a) :
    memRead s addr = (.ok, s.mem.wordAt [0, s.stamp] a) := by simp [memRead, refusedRead, readData, ht, hb]

theorem memRead_rom {j : Nat} {im : Bool} (ht : target s.cfg addr = .rom j im) :
    memRead s addr = (.ok, romWord s.cfg j im) := by simp [memRead, refusedRead, readData, ht]

theorem memWrite_id (v : Word) (ht : target s.cfg addr = .id) : memWrite s addr v = (.err, s) :=
  memWrite_of_err (memWrite_err_iff.mpr (.inr (.inl (.inl ht))))

theorem memWrite_rom {j : Nat} {im : Bool} (v : Word) (ht : target s.cfg addr = .rom j im) :
    memWrite s addr v = (.err, s) :=
  memWrite_of_err (memWrite_err_iff.mpr (.inr (.inl (.inr ⟨j, im, ht⟩))))

theorem memWrite_ctrl_idle (hb : s.busy = false) (v : Word) (ht : target s.cfg addr = .ctrl) :
    memWrite s addr v = (.ok, { s with ie := v.getLsbD 0 }) := by simp [memWrite, refusedWrite, applyWrite, ht, hb]

theorem memWrite_status_idle (hb : s.busy = false) (v : Word) (ht : target s.cfg addr = .status) :
    memWrite s addr v = (.ok, { s with done := s.done && !v.getLsbD 1 }) := by
  simp [memWrite, refusedWrite, applyWrite, ht, hb]

theorem memWrite_cmd_idle (hb : s.busy = false) (v : Word) (ht : target s.cfg addr = .cmd) :
    memWrite s addr v = (.ok, s.issue v) := by simp [memWrite, refusedWrite, applyWrite, ht, hb]

theorem memWrite_len_idle (hb : s.busy = false) {b : BufIx} {v : Word} (hv : v.toNat ≤ s.cfg.nmax)
    (ht : target s.cfg addr = .len b) : memWrite s addr v = (.ok, { s with len := s.len.set b v.toNat }) := by
  simp [memWrite, refusedWrite, applyWrite, ht, hb, Nat.not_lt.mpr hv]

theorem memWrite_len_above {b : BufIx} {v : Word} (hv : s.cfg.nmax < v.toNat) (ht : target s.cfg addr = .len b) :
    memWrite s addr v = (.err, s) :=
  memWrite_of_err (memWrite_err_iff.mpr (.inr (.inr (.inl ⟨⟨b, ht⟩, hv⟩))))

theorem memWrite_data_idle (hb : s.busy = false) {a : Nat} (v : Word) (ht : target s.cfg addr = .data a) :
    memWrite s addr v = (.ok, { s with mem := s.mem.write a v }) := by simp [memWrite, refusedWrite, applyWrite, ht, hb]

end Transactions

/-! ## The refused transactions -/

/-- R34 for reads, case by case of the address map. -/
theorem memRead_err_iff_mapped {s : State} (hc : s.cfg.wf = true) (addr : HostAddr) :
    (memRead s addr).1 = .err ↔
      ¬ Mapped s.cfg addr.toNat
        ∨ (s.busy = true ∧ ((4 ≤ addr.toNat ∧ addr.toNat ≤ 7) ∨ 0x80000 ≤ addr.toNat)) := by
  have hs := standsAt_target hc addr
  have hn := nmax_le hc
  rw [memRead_err_iff]
  generalize target s.cfg addr = r, addr.toNat = a at hs
  cases hs with
  | id | ctrl | status | cmd => simp [Mapped]
  | len b =>
    have hm : Mapped s.cfg (4 + b.val) := .inl (by omega)
    have hb : 4 + b.val ≤ 7 := by omega
    simp [hm, hb]
  | @rom j e hj he =>
    have hm := mapped_rom hj he
    have hlo : ¬ 0x40000 + 2 * j + e ≤ 7 := by omega
    have hhi : ¬ 0x80000 ≤ 0x40000 + 2 * j + e := by omega
    simp [hm, hlo, hhi]
  | @data b i e hi he => simp [mapped_dataAddr b hi he, dataAddr_ge b i e]
  | unmapped h => simp [h]

/-- R34 for writes, case by case of the address map. -/
theorem memWrite_err_iff_mapped {s : State} (hc : s.cfg.wf = true) (addr : HostAddr) (v : Word) :
    (memWrite s addr v).1 = .err ↔
      ¬ Mapped s.cfg addr.toNat
        ∨ (addr.toNat = 0 ∨ (0x40000 ≤ addr.toNat ∧ addr.toNat < 0x80000))
        ∨ ((4 ≤ addr.toNat ∧ addr.toNat ≤ 7) ∧ s.cfg.nmax < v.toNat)
        ∨ s.busy = true := by
  have hs := standsAt_target hc addr
  have hn := nmax_le hc
  rw [memWrite_err_iff]
  generalize target s.cfg addr = r, addr.toNat = a at hs
  cases hs with
  | id | ctrl | status | cmd => simp [Mapped]
  | len b =>
    have hm : Mapped s.cfg (4 + b.val) := .inl (by omega)
    have hb : 4 + b.val ≤ 7 := by omega
    have hr : ¬ 0x40000 ≤ 4 + b.val := by omega
    simp [hm, hb, hr]
  | @rom j e hj he =>
    have hlo : 0x40000 ≤ 0x40000 + 2 * j + e := by omega
    have hhi : 0x40000 + 2 * j + e < 0x80000 := by omega
    simp [hlo, hhi]
  | @data b i e hi he =>
    have ha := dataAddr_ge b i e
    have hz : dataAddr b i e ≠ 0 := by omega
    have hr : ¬ dataAddr b i e < 0x80000 := by omega
    have hl : ¬ dataAddr b i e ≤ 7 := by omega
    simp [mapped_dataAddr b hi he, hz, hr, hl]
  | unmapped h => simp [h]

/-- Settles O14: the refusals by what stands at the address, carried over the address map; a refused write answers with
the state it found. -/
theorem refusedTransactionsAreTheListed : Obligations.RefusedTransactionsAreTheListed := by
  intro s addr hc
  refine ⟨memRead_err_iff_mapped hc addr, fun v => ⟨memWrite_err_iff_mapped hc addr v, fun h => ?_, fun h => ?_⟩⟩
  · rw [hostWrite, memWrite_of_err h]
    exact ⟨rfl, rfl⟩
  · exact ⟨(memRead s addr).2, by rw [hostRead, h]⟩

/-! ## The sample buffers -/

/-- Settles O18: a populated address stands for one word of memory, and reading after a write is `Memory.read_write`. -/
theorem bufferWordsReadBackAsWritten : Obligations.BufferWordsReadBackAsWritten := by
  intro s b i e hc hi he
  have ht := target_addrData hc b hi he
  refine ⟨fun hb => ⟨memRead_data_busy hb ht, memWrite_busy hb _⟩, fun hb => ?_⟩
  rw [memRead_data_idle hb ht]
  refine ⟨rfl, fun w hw => ?_, fun v => ?_⟩
  · simp [Memory.wordAt, hw]
  · exact ⟨_, memWrite_data_idle hb v ht, s.mem.read_write_same _ v, fun _ => s.mem.read_write_ne v⟩

/-! ## The control registers -/

/-- The low four bits of `STATUS`, as 20_memory.md R30 lays them out. -/
theorem State.statusWord_bits (s : State) :
    s.statusWord.getLsbD 0 = s.busy ∧ s.statusWord.getLsbD 1 = s.done ∧ s.statusWord.getLsbD 2 = s.trunc
      ∧ s.statusWord.getLsbD 3 = false := by
  have hbit (k : Nat) : s.statusWord.getLsbD k = (0#56 ++ (s.err ++ (0#1 ++
      (BitVec.ofBool s.trunc ++ (BitVec.ofBool s.done ++ BitVec.ofBool s.busy))))).getLsbD k := rfl
  simp only [hbit, BitVec.getLsbD_append]
  simp

/-- `ERR` in bits 4 to 7 of `STATUS`, and 0 above it (20_memory.md R30). -/
theorem State.statusWord_err (s : State) :
    s.statusWord.extractLsb' 4 4 = s.err ∧ s.statusWord.extractLsb' 8 56 = 0 :=
  ⟨(BitVec.extractLsb'_append_eq_of_add_le (by decide)).trans BitVec.extractLsb'_append_eq_left,
    BitVec.extractLsb'_append_eq_left⟩

theorem State.ctrlWord_eq (s : State) : s.ctrlWord = if s.ie then 1 else 0 := by
  rw [State.ctrlWord]
  cases s.ie <;> rfl

/-- Settles O15: each register's read in turn; a read transaction is `State.answered`, which keeps every register and
every word. -/
theorem controlReadsReturnTheRegisters : Obligations.ControlReadsReturnTheRegisters := by
  intro s
  obtain ⟨hbusy, hdone, htrunc, hzero⟩ := s.statusWord_bits
  obtain ⟨herr, hhigh⟩ := s.statusWord_err
  refine ⟨memRead_id s, (memRead_ctrl s).trans (by rw [s.ctrlWord_eq]), rfl, hbusy, hdone, htrunc, hzero, herr, hhigh,
    memRead_cmd s, fun _ => ⟨rfl, rfl, rfl, rfl, rfl, rfl, rfl, rfl, rfl⟩, fun b => ⟨fun hb => ?_, fun hb => ?_⟩⟩
  · exact memRead_len_busy hb (target_addrLen _ b)
  · exact memRead_len_idle hb (target_addrLen _ b)

/-- Settles O17: busy, every write is refused; idle, each register's write in turn. -/
theorem controlWritesDoAsStated : Obligations.ControlWritesDoAsStated := by
  intro s v
  refine ⟨fun hb addr _ => memWrite_busy hb addr v, fun hb => ⟨memWrite_id v (target_id _),
    memWrite_ctrl_idle hb v (target_ctrl _), fun hv => ?_, fun hv => ?_, ⟨_, memWrite_cmd_idle hb v (target_cmd _)⟩,
    fun b => ⟨fun hv => ?_, fun hv => ?_⟩⟩⟩
  · rw [memWrite_status_idle hb v (target_status _), hv]; simp
  · rw [memWrite_status_idle hb v (target_status _), hv]; simp
  · exact memWrite_len_idle hb hv (target_addrLen _ b)
  · exact memWrite_len_above hv (target_addrLen _ b)

/-! ## The twiddle ROM -/

theorem romEntry_of_getElem? {c : Config} {j : Nat} {z : Sample} (h : c.twrom[j]? = some z) : romEntry c j = z := by
  simp [romEntry, h]

/-- An entry of the image of a legal configuration is below `NMAX/2` (10_state.md R24). -/
theorem lt_of_twrom_getElem? {c : Config} (hc : c.wf = true) {j : Nat} {z : Sample} (h : c.twrom[j]? = some z) :
    j < c.nmax / 2 :=
  (Config.wf_iff.mp hc).2.2 ▸ (List.getElem?_eq_some_iff.mp h).1

/-- Settles O19: both words of an entry stand in the ROM region, where a read does not ask for the phase and every write
is refused. -/
theorem romReadsTheImage : Obligations.RomReadsTheImage := by
  intro s j z hc hz
  have hj := lt_of_twrom_getElem? hc hz
  have hre := target_romAddr hc hj (e := 0) (by decide)
  have him := target_romAddr hc hj (e := 1) (by decide)
  refine ⟨?_, ?_, fun v => ⟨memWrite_rom v hre, memWrite_rom v him⟩⟩
  · exact (memRead_rom hre).trans (by simp [romWord, romEntry_of_getElem? hz])
  · exact (memRead_rom him).trans (by simp [romWord, romEntry_of_getElem? hz])

end Sys2Proof.Machine
end

section
/-! PROOF. The encoding of the commands (30_encoding.md): the decoder inverts the encoder, every command has one word, and
the legal words are those of the mask and match table. -/

namespace Sys2Proof

/-! ## A value and its fields -/

theorem field_eq_zero_iff {v : Word} {lo n : Nat} : field v lo n = 0 ↔ v.extractLsb' lo n = 0 :=
  BitVec.toNat_inj (y := 0)

theorem fieldImm_lt (v : Word) : fieldImm v < 2 ^ 16 := BitVec.isLt _

theorem fieldL_eq_iff {v : Word} {l : Bool} : fieldL v = l ↔ v.toNat / 2 ^ 21 % 2 = l.toNat := by
  rw [← fieldL_toNat]
  cases fieldL v <;> cases l <;> decide

/-- `RB` and `L` are the three bits that a command without a second source must leave zero (30_encoding.md R115). -/
theorem field_second_eq_zero_iff {v : Word} : field v 21 3 = 0 ↔ fieldRB v = 0 ∧ fieldL v = false := by
  have hb := bufField_val v 22
  rw [field_eq, fieldL_eq_iff, Fin.ext_iff, fieldRB, hb, Fin.val_zero, Bool.toNat_false]
  omega

/-- What all words of the opcode `opc` have in common: `OPC` is `opc`, and `ZERO` and the upper half are zero
(30_encoding.md R108, R109). -/
structure HasOpcode (v : Word) (opc : Nat) : Prop where
  opcode : field v 28 4 = opc
  zero : field v 16 5 = 0
  upper : field v 32 32 = 0

/-- A word of the opcode `opc` is the one written from these operands exactly when it has them in its fields
(30_encoding.md R109, R117). -/
theorem cmdWord_eq_iff {v : Word} {opc : Nat} (h : HasOpcode v opc) {d a b : BufIx} {l : Bool} {m : Nat}
    (hm : m < 2 ^ 16) :
    cmdWord opc d a b l m = v
      ↔ fieldRD v = d ∧ fieldRA v = a ∧ fieldRB v = b ∧ fieldL v = l ∧ fieldImm v = m := by
  obtain ⟨ho, hz, hu⟩ := h
  have hd := bufField_val v 26
  have ha := bufField_val v 24
  have hb := bufField_val v 22
  have := Bool.toNat_lt l
  rw [field_eq] at ho hz hu
  rw [← BitVec.toNat_inj, toNat_cmdWord d a b l (by omega) hm, fieldL_eq_iff]
  simp only [Fin.ext_iff, fieldRD, fieldRA, fieldRB, fieldImm, field_eq, hd, ha, hb]
  omega

/-! ## The three shapes of a command -/

section Shapes

variable {v : Word} {opc : Nat} {i : Instr}

theorem decodePad_eq_command_iff :
    decodePad v = .command i ↔ field v 21 3 = 0 ∧ .pad (fieldRD v) (fieldRA v) (fieldImm v) = i := by
  by_cases hs : field v 21 3 = 0 <;> simp [decodePad, hs]

theorem decodeOneSource_eq_command_iff {mk : BufIx → BufIx → Instr} :
    decodeOneSource v mk = .command i ↔ field v 21 3 = 0 ∧ fieldImm v = 0 ∧ mk (fieldRD v) (fieldRA v) = i := by
  by_cases hs : field v 21 3 = 0 <;> by_cases hm : field v 0 16 = 0 <;> simp [decodeOneSource, fieldImm, hs, hm]

theorem decodeTwoSource_eq_command_iff {mk : BufIx → BufIx → BufIx → Bool → Instr} :
    decodeTwoSource v mk = .command i
      ↔ fieldImm v = 0 ∧ mk (fieldRD v) (fieldRA v) (fieldRB v) (fieldL v) = i := by
  by_cases hm : field v 0 16 = 0 <;> simp [decodeTwoSource, fieldImm, hm]

/-- `PAD` is decoded from the words that carry its operands and no second source. -/
theorem HasOpcode.decodePad_iff (h : HasOpcode v opc) :
    decodePad v = .command i ↔ ∃ d a m, m < 2 ^ 16 ∧ .pad d a m = i ∧ cmdWord opc d a 0 false m = v := by
  rw [decodePad_eq_command_iff, field_second_eq_zero_iff]
  constructor
  · rintro ⟨⟨hb, hl⟩, rfl⟩
    exact ⟨_, _, _, fieldImm_lt v, rfl, (cmdWord_eq_iff h (fieldImm_lt v)).mpr ⟨rfl, rfl, hb, hl, rfl⟩⟩
  · rintro ⟨d, a, m, hm, rfl, hv⟩
    obtain ⟨rfl, rfl, hb, hl, rfl⟩ := (cmdWord_eq_iff h hm).mp hv
    exact ⟨⟨hb, hl⟩, rfl⟩

/-- A command with one source is decoded from the words that carry its operands and nothing else. -/
theorem HasOpcode.decodeOneSource_iff (h : HasOpcode v opc) {mk : BufIx → BufIx → Instr} :
    decodeOneSource v mk = .command i ↔ ∃ d a, mk d a = i ∧ cmdWord opc d a 0 false 0 = v := by
  rw [decodeOneSource_eq_command_iff, field_second_eq_zero_iff]
  constructor
  · rintro ⟨⟨hb, hl⟩, hm, rfl⟩
    exact ⟨_, _, rfl, (cmdWord_eq_iff h (by decide)).mpr ⟨rfl, rfl, hb, hl, hm⟩⟩
  · rintro ⟨d, a, rfl, hv⟩
    obtain ⟨rfl, rfl, hb, hl, hm⟩ := (cmdWord_eq_iff h (by decide)).mp hv
    exact ⟨⟨hb, hl⟩, hm, rfl⟩

/-- A command with two sources is decoded from the words that carry its operands and no immediate. -/
theorem HasOpcode.decodeTwoSource_iff (h : HasOpcode v opc) {mk : BufIx → BufIx → BufIx → Bool → Instr} :
    decodeTwoSource v mk = .command i ↔ ∃ d a b l, mk d a b l = i ∧ cmdWord opc d a b l 0 = v := by
  rw [decodeTwoSource_eq_command_iff]
  constructor
  · rintro ⟨hm, rfl⟩
    exact ⟨_, _, _, _, rfl, (cmdWord_eq_iff h (by decide)).mpr ⟨rfl, rfl, rfl, rfl, hm⟩⟩
  · rintro ⟨d, a, b, l, rfl, hv⟩
    obtain ⟨rfl, rfl, rfl, rfl, hm⟩ := (cmdWord_eq_iff h (by decide)).mp hv
    exact ⟨hm, rfl⟩

/-- What a case with one source decodes is well formed, and its encoding is the value. -/
theorem HasOpcode.encode_of_decodeOneSource (h : HasOpcode v opc) {mk : BufIx → BufIx → Instr}
    (hd : decodeOneSource v mk = .command i)
    (hmk : ∀ d a, (mk d a).wellFormed = true ∧ encode (mk d a) = cmdWord opc d a 0 false 0) :
    i.wellFormed = true ∧ encode i = v := by
  obtain ⟨d, a, rfl, rfl⟩ := h.decodeOneSource_iff.mp hd
  exact hmk d a

/-- What a case with two sources decodes is well formed, and its encoding is the value. -/
theorem HasOpcode.encode_of_decodeTwoSource (h : HasOpcode v opc) {mk : BufIx → BufIx → BufIx → Bool → Instr}
    (hd : decodeTwoSource v mk = .command i)
    (hmk : ∀ d a b l, (mk d a b l).wellFormed = true ∧ encode (mk d a b l) = cmdWord opc d a b l 0) :
    i.wellFormed = true ∧ encode i = v := by
  obtain ⟨d, a, b, l, rfl, rfl⟩ := h.decodeTwoSource_iff.mp hd
  exact hmk d a b l

/-! ## The decoder, opcode by opcode -/

theorem HasOpcode.decode_eq (h : HasOpcode v opc) : decode v = decodeOpcode v := by
  rw [decode, if_neg (not_not.mpr h.upper), if_neg (not_not.mpr h.zero)]

theorem decodeOpcode_pad (h : HasOpcode v 1) : decodeOpcode v = decodePad v := by
  simp only [decodeOpcode, h.opcode]
theorem decodeOpcode_fft (h : HasOpcode v 2) : decodeOpcode v = decodeOneSource v .fft := by
  simp only [decodeOpcode, h.opcode]
theorem decodeOpcode_ifft (h : HasOpcode v 3) : decodeOpcode v = decodeOneSource v .ifft := by
  simp only [decodeOpcode, h.opcode]
theorem decodeOpcode_mul (h : HasOpcode v 4) : decodeOpcode v = decodeTwoSource v .mul := by
  simp only [decodeOpcode, h.opcode]
theorem decodeOpcode_conj (h : HasOpcode v 5) : decodeOpcode v = decodeOneSource v .conj := by
  simp only [decodeOpcode, h.opcode]
theorem decodeOpcode_conv (h : HasOpcode v 6) : decodeOpcode v = decodeTwoSource v .conv := by
  simp only [decodeOpcode, h.opcode]
theorem decodeOpcode_convir (h : HasOpcode v 7) : decodeOpcode v = decodeTwoSource v .convir := by
  simp only [decodeOpcode, h.opcode]
theorem decodeOpcode_xcorr (h : HasOpcode v 8) : decodeOpcode v = decodeTwoSource v .xcorr := by
  simp only [decodeOpcode, h.opcode]

/-- A value that is refused by neither of the first two tests has the opcode of its bits 31:28. -/
theorem hasOpcode_of_decode (h : decode v = .command i) : HasOpcode v (field v 28 4) := by
  rw [decode] at h
  split at h
  · cases h
  split at h
  · cases h
  · next hu hz => exact ⟨rfl, not_not.mp hz, not_not.mp hu⟩

theorem hasOpcode_encode (h : i.wellFormed = true) : HasOpcode (encode i) i.opcode := by
  have hi : Laws.EncodeOpcode.Statement i := by
    cases i with
    | pad d a m => exact Laws.EncodeOpcode.pad d a m
    | fft d a => exact Laws.EncodeOpcode.fft d a
    | ifft d a => exact Laws.EncodeOpcode.ifft d a
    | mul d a b l => exact Laws.EncodeOpcode.mul d a b l
    | conj d a => exact Laws.EncodeOpcode.conj d a
    | conv d a b l => exact Laws.EncodeOpcode.conv d a b l
    | convir d a b l => exact Laws.EncodeOpcode.convir d a b l
    | xcorr d a b l => exact Laws.EncodeOpcode.xcorr d a b l
  obtain ⟨ho, hz, hu⟩ := hi h
  exact ⟨ho, hz, hu⟩

end Shapes

/-- Settles O1: the encoding has the opcode of its family, and the decoder's case for that opcode reads the operands. -/
theorem decodeOfEncodeIsTheCommand : Obligations.DecodeOfEncodeIsTheCommand := by
  intro i hi
  have h := hasOpcode_encode hi
  rw [h.decode_eq]
  cases i with
  | pad d a m => exact (decodeOpcode_pad h).trans (h.decodePad_iff.mpr ⟨d, a, m, of_decide_eq_true hi, rfl, rfl⟩)
  | fft d a => exact (decodeOpcode_fft h).trans (h.decodeOneSource_iff.mpr ⟨d, a, rfl, rfl⟩)
  | ifft d a => exact (decodeOpcode_ifft h).trans (h.decodeOneSource_iff.mpr ⟨d, a, rfl, rfl⟩)
  | mul d a b l => exact (decodeOpcode_mul h).trans (h.decodeTwoSource_iff.mpr ⟨d, a, b, l, rfl, rfl⟩)
  | conj d a => exact (decodeOpcode_conj h).trans (h.decodeOneSource_iff.mpr ⟨d, a, rfl, rfl⟩)
  | conv d a b l => exact (decodeOpcode_conv h).trans (h.decodeTwoSource_iff.mpr ⟨d, a, b, l, rfl, rfl⟩)
  | convir d a b l => exact (decodeOpcode_convir h).trans (h.decodeTwoSource_iff.mpr ⟨d, a, b, l, rfl, rfl⟩)
  | xcorr d a b l => exact (decodeOpcode_xcorr h).trans (h.decodeTwoSource_iff.mpr ⟨d, a, b, l, rfl, rfl⟩)

/-- Settles O2: in each case of the decoder the value is the word written from the operands that are read. -/
theorem commandHasOneEncoding : Obligations.CommandHasOneEncoding := by
  intro v i hd
  have h := hasOpcode_of_decode hd
  rw [h.decode_eq, decodeOpcode] at hd
  generalize field v 28 4 = opc at h hd
  split at hd
  · obtain ⟨d, a, m, hm, rfl, hv⟩ := h.decodePad_iff.mp hd
    exact ⟨decide_eq_true hm, hv⟩
  · exact h.encode_of_decodeOneSource hd fun _ _ => ⟨rfl, rfl⟩
  · exact h.encode_of_decodeOneSource hd fun _ _ => ⟨rfl, rfl⟩
  · exact h.encode_of_decodeTwoSource hd fun _ _ _ _ => ⟨rfl, rfl⟩
  · exact h.encode_of_decodeOneSource hd fun _ _ => ⟨rfl, rfl⟩
  · exact h.encode_of_decodeTwoSource hd fun _ _ _ _ => ⟨rfl, rfl⟩
  · exact h.encode_of_decodeTwoSource hd fun _ _ _ _ => ⟨rfl, rfl⟩
  · exact h.encode_of_decodeTwoSource hd fun _ _ _ _ => ⟨rfl, rfl⟩
  · cases hd

/-- Settles O4: the words of the table, decoded. -/
theorem tableWordsDecode : Obligations.TableWordsDecode := by
  unfold Obligations.TableWordsDecode
  decide

/-! ## The mask and match table -/

theorem bitVec_append_inj {n k : Nat} {a c : BitVec n} {b d : BitVec k} : a ++ b = c ++ d ↔ a = c ∧ b = d := by
  refine ⟨fun h => ⟨?_, ?_⟩, fun ⟨ha, hb⟩ => ha ▸ hb ▸ rfl⟩
  · simpa only [BitVec.extractLsb'_append_eq_left] using congrArg (BitVec.extractLsb' k n) h
  · simpa only [BitVec.extractLsb'_append_eq_right] using congrArg (BitVec.extractLsb' 0 k) h

/-- The 32 bits of a word, cut at the borders of `OPC`, the two buffer indices, `RB` with `L`, `ZERO` and `IMM16`. -/
abbrev CutWord : Type := BitVec (4 + (4 + (3 + (5 + 16))))

/-- A mask of 30_encoding.md R114: `OPC` and `ZERO`, and what a command must leave zero of `RB` with `L` and of `IMM16`. -/
def rowMask (second : BitVec 3) (imm : BitVec 16) : CutWord :=
  BitVec.allOnes 4 ++ (0#4 ++ (second ++ (BitVec.allOnes 5 ++ imm)))

/-- A match value of 30_encoding.md R114: the opcode in bits 31:28, and zeros. -/
def rowPattern (opc : BitVec 4) : CutWord := opc ++ (0#4 ++ (0#3 ++ (0#5 ++ 0#16)))

theorem append_fields (w : CutWord) :
    w.extractLsb' 28 4 ++ (w.extractLsb' 24 4 ++ (w.extractLsb' 21 3 ++ (w.extractLsb' 16 5 ++ w.extractLsb' 0 16)))
      = w := by
  rw [BitVec.extractLsb'_append_extractLsb'_eq_extractLsb' (show 16 = 0 + 16 by decide),
    BitVec.extractLsb'_append_extractLsb'_eq_extractLsb' (show 21 = 0 + (5 + 16) by decide),
    BitVec.extractLsb'_append_extractLsb'_eq_extractLsb' (show 24 = 0 + (3 + (5 + 16)) by decide),
    BitVec.extractLsb'_append_extractLsb'_eq_extractLsb' (show 28 = 0 + (4 + (3 + (5 + 16))) by decide),
    BitVec.extractLsb'_eq_self]

/-- `w and mask = match`, field by field. -/
theorem and_rowMask_eq_iff {w : CutWord} {opc : BitVec 4} {second : BitVec 3} {imm : BitVec 16} :
    w &&& rowMask second imm = rowPattern opc
      ↔ w.extractLsb' 28 4 = opc ∧ w.extractLsb' 21 3 &&& second = 0 ∧ w.extractLsb' 16 5 = 0
        ∧ w.extractLsb' 0 16 &&& imm = 0 := by
  conv_lhs => rw [← append_fields w, rowMask, rowPattern]
  rw [BitVec.and_append, BitVec.and_append, BitVec.and_append, BitVec.and_append]
  simp only [bitVec_append_inj, BitVec.and_allOnes, BitVec.and_zero, true_and, BitVec.ofNat_eq_ofNat]

/-- The decoder finds a command of the opcode `opc` where the value has that opcode and the decoder's case for it does not
refuse. -/
theorem exists_command_iff {v : Word} {opc : Nat} :
    (∃ i, decode v = .command i ∧ i.opcode = opc) ↔ HasOpcode v opc ∧ ∃ i, decodeOpcode v = .command i := by
  constructor
  · rintro ⟨i, hd, rfl⟩
    obtain ⟨hi, rfl⟩ := commandHasOneEncoding v i hd
    have h := hasOpcode_encode hi
    exact ⟨h, i, h.decode_eq ▸ hd⟩
  · rintro ⟨h, i, hd⟩
    rw [← h.decode_eq] at hd
    obtain ⟨hi, rfl⟩ := commandHasOneEncoding v i hd
    exact ⟨i, hd, (hasOpcode_encode hi).opcode.symm.trans h.opcode⟩

section Rows

variable {v : Word} {opc : BitVec 4}

/-- The values of a row of the table are those of its opcode with zeros where the mask covers `RB`, `L` and `IMM16`. -/
theorem row_iff {second : BitVec 3} {imm : BitVec 16} :
    v.extractLsb' 32 32 = 0 ∧ v.extractLsb' 0 32 &&& rowMask second imm = rowPattern opc
      ↔ HasOpcode v opc.toNat ∧ v.extractLsb' 21 3 &&& second = 0 ∧ v.extractLsb' 0 16 &&& imm = 0 := by
  have hcut {lo n : Nat} (h : lo + n ≤ 32) :
      BitVec.extractLsb' lo n (v.extractLsb' 0 32 : CutWord) = v.extractLsb' lo n :=
    BitVec.extractLsb'_extractLsb'_of_le h
  rw [and_rowMask_eq_iff, hcut (by decide), hcut (by decide), hcut (by decide), hcut (by decide),
    ← field_eq_zero_iff, ← field_eq_zero_iff, ← BitVec.toNat_inj]
  exact ⟨fun ⟨hu, ho, hs, hz, hm⟩ => ⟨⟨ho, hz, hu⟩, hs, hm⟩, fun ⟨⟨ho, hz, hu⟩, hs, hm⟩ => ⟨hu, ho, hs, hz, hm⟩⟩

theorem padRow_iff (h : HasOpcode v opc.toNat → decodeOpcode v = decodePad v) :
    (∃ i, decode v = .command i ∧ i.opcode = opc.toNat)
      ↔ v.extractLsb' 32 32 = 0 ∧ v.extractLsb' 0 32 &&& rowMask (BitVec.allOnes 3) 0 = rowPattern opc := by
  rw [exists_command_iff, row_iff, BitVec.and_allOnes]
  refine and_congr_right fun ho => ?_
  simp [h ho, decodePad_eq_command_iff, field_eq_zero_iff]

theorem oneSourceRow_iff {mk : BufIx → BufIx → Instr}
    (h : HasOpcode v opc.toNat → decodeOpcode v = decodeOneSource v mk) :
    (∃ i, decode v = .command i ∧ i.opcode = opc.toNat) ↔ v.extractLsb' 32 32 = 0
      ∧ v.extractLsb' 0 32 &&& rowMask (BitVec.allOnes 3) (BitVec.allOnes 16) = rowPattern opc := by
  rw [exists_command_iff, row_iff, BitVec.and_allOnes, BitVec.and_allOnes]
  refine and_congr_right fun ho => ?_
  simp [h ho, decodeOneSource_eq_command_iff, fieldImm, field_eq_zero_iff]

theorem twoSourceRow_iff {mk : BufIx → BufIx → BufIx → Bool → Instr}
    (h : HasOpcode v opc.toNat → decodeOpcode v = decodeTwoSource v mk) :
    (∃ i, decode v = .command i ∧ i.opcode = opc.toNat) ↔ v.extractLsb' 32 32 = 0
      ∧ v.extractLsb' 0 32 &&& rowMask 0 (BitVec.allOnes 16) = rowPattern opc := by
  rw [exists_command_iff, row_iff, BitVec.and_allOnes]
  refine and_congr_right fun ho => ?_
  simp [h ho, decodeTwoSource_eq_command_iff, fieldImm, field_eq_zero_iff]

end Rows

/-- The bits of `OPC` stand in every mask and hold the whole match value. -/
theorem opRows_opcodeBits :
    ∀ r ∈ opRows, r.mask &&& 0xF0000000 = 0xF0000000 ∧ r.pattern &&& 0xF0000000 = r.pattern := by decide

theorem opRows_eq_of_pattern_eq : ∀ r ∈ opRows, ∀ r' ∈ opRows, r.pattern = r'.pattern → r = r' := by decide

/-- The match value of a row that a word satisfies is the word's `OPC`. -/
theorem and_opcodeBits_of_matches {w : BitVec 32} {r : OpRow} (hr : r ∈ opRows) (h : w &&& r.mask = r.pattern) :
    w &&& 0xF0000000 = r.pattern := by
  obtain ⟨hm, hp⟩ := opRows_opcodeBits r hr
  calc w &&& 0xF0000000 = w &&& r.mask &&& 0xF0000000 := by rw [BitVec.and_assoc, hm]
    _ = r.pattern := by rw [h, hp]

theorem Instr.opcode_range (i : Instr) : 1 ≤ i.opcode ∧ i.opcode ≤ 8 := by
  cases i <;> simp [Instr.opcode]

/-- Settles O3: each row's mask is cut at the borders of the fields, where it says what the decoder tests for the shape of
the row's opcode; a word has one `OPC`, so it satisfies one row at most. -/
theorem legalWordsMatchMaskTable : Obligations.LegalWordsMatchMaskTable := by
  refine ⟨fun v opc mask pat hrow => ?_, fun _ i _ => i.opcode_range, fun w r r' hr hr' h h' => ?_⟩
  · simp only [List.mem_cons, List.not_mem_nil, or_false, Prod.mk.injEq] at hrow
    obtain ⟨rfl, rfl, rfl⟩ | ⟨rfl, rfl, rfl⟩ | ⟨rfl, rfl, rfl⟩ | ⟨rfl, rfl, rfl⟩ | ⟨rfl, rfl, rfl⟩ | ⟨rfl, rfl, rfl⟩
      | ⟨rfl, rfl, rfl⟩ | ⟨rfl, rfl, rfl⟩ := hrow
    · exact padRow_iff (opc := 1) decodeOpcode_pad
    · exact oneSourceRow_iff (opc := 2) decodeOpcode_fft
    · exact oneSourceRow_iff (opc := 3) decodeOpcode_ifft
    · exact twoSourceRow_iff (opc := 4) decodeOpcode_mul
    · exact oneSourceRow_iff (opc := 5) decodeOpcode_conj
    · exact twoSourceRow_iff (opc := 6) decodeOpcode_conv
    · exact twoSourceRow_iff (opc := 7) decodeOpcode_convir
    · exact twoSourceRow_iff (opc := 8) decodeOpcode_xcorr
  · have hpat : r.pattern = r'.pattern := (and_opcodeBits_of_matches hr h).symm.trans (and_opcodeBits_of_matches hr' h')
    exact opRows_eq_of_pattern_eq r hr r' hr' hpat

end Sys2Proof
end

section
/-! PROOF. Host scripts (30_encoding.md R118): a `WAIT` ends with the final `STATUS` read, and a line `RD` or `WR` faults
exactly when its transaction is refused. -/

namespace Sys2Proof.Machine

/-! ## `WAIT` -/

theorem run_succ_of_next {s s' : State} (h : step s = .next s') (k : Nat) :
    Host.Core.run Sys2Proof.core (k + 1) s = Host.Core.run Sys2Proof.core k s' := by
  have hcore : Sys2Proof.core.step s = .next s' := h
  simp only [Host.Core.run, hcore]

/-- What a `WAIT` ends with: the engine idle, the `WAIT` off the list, and the `STATUS` of that moment read. -/
def WaitEnds (k : Nat) (rest : List HostOp) (s : State) : Prop :=
  ∃ t, Host.Core.run Sys2Proof.core k s = .next t ∧ t.busy = false ∧ t.pending = rest
    ∧ t.port = some (.read .ok t.statusWord)

theorem WaitEnds.succ {k : Nat} {rest : List HostOp} {s s' : State} (h : step s = .next s') (hw : WaitEnds k rest s') :
    WaitEnds (k + 1) rest s := by
  obtain ⟨t, hrun, ht⟩ := hw
  exact ⟨t, (run_succ_of_next h k).trans hrun, ht⟩

/-- A poll of a busy engine reads `STATUS` and leaves the `WAIT` pending (30_encoding.md R118). -/
theorem step_wait_busy {s : State} {rest : List HostOp} (hb : s.busy = true) (hd : s.delay ≠ 0)
    (hp : s.pending = .wait :: rest) :
    ∃ t, step s = .next t ∧ t.busy = true ∧ t.pending = .wait :: rest ∧ t.delay = s.delay - 1 := by
  rw [step_eq_hostStep (.inr hd) hp, hostStep, if_pos hb]
  exact ⟨_, rfl, hb, rfl, rfl⟩

/-- The engine idle, the `WAIT` reads `STATUS` and is done. -/
theorem waitEnds_one {s : State} {rest : List HostOp} (hb : s.busy = false) (hp : s.pending = .wait :: rest) :
    WaitEnds 1 rest s := by
  have hs : step s = .next (hostRead (s.taken rest) addrStatus) := by
    rw [step_eq_hostStep (.inl hb) hp]
    simp [hostStep, hb, State.taken]
  exact .succ hs ⟨_, rfl, hb, rfl, rfl⟩

/-- A completion takes `BUSY` to 0 and leaves the host's events (60_exceptions.md R131, R132). -/
theorem engineStep_idle (s : State) : ∃ t, engineStep s = .next t ∧ t.busy = false ∧ t.pending = s.pending := by
  cases hd : s.inFlight with
  | command i =>
    rw [engineStep_command hd]
    rcases exec_cases i s with ⟨q, tr, -, hx⟩ | ⟨k, -, hx⟩
    · exact ⟨_, hx, rfl, rfl⟩
    · exact ⟨_, hx, rfl, rfl⟩
  | illegal w => exact ⟨_, engineStep_illegal hd, rfl, rfl⟩

/-- A `WAIT` polls until no event may get in before the completion, then the completion takes place, then it ends. -/
theorem waitEnds_of_delay {s : State} {rest : List HostOp} (hp : s.pending = .wait :: rest) :
    ∃ k ≤ s.delay + 2, WaitEnds k rest s := by
  cases hb : s.busy with
  | false => exact ⟨1, by omega, waitEnds_one hb hp⟩
  | true =>
    induction hn : s.delay generalizing s with
    | zero =>
      obtain ⟨t, ht, htb, htp⟩ := engineStep_idle s
      have hs : step s = .next t := (step_engine ((engineTurn_iff s).mpr ⟨hb, .inl hn⟩)).trans ht
      exact ⟨2, by omega, (waitEnds_one htb (htp.trans hp)).succ hs⟩
    | succ n ih =>
      obtain ⟨t, hs, htb, htp, htd⟩ := step_wait_busy hb (by omega) hp
      obtain ⟨k, hk, hw⟩ := ih htp htb (by omega)
      exact ⟨k + 1, by omega, hw.succ hs⟩

/-- Settles O11: by induction on the number of events that still get in before the completion. -/
theorem waitTerminates : Obligations.WaitTerminates := by
  intro s rest hp
  obtain ⟨k, hk, t, ht⟩ := waitEnds_of_delay hp
  exact ⟨k, t, hk, ht⟩

/-! ## `RD` and `WR` -/

section Lines

variable {s : State} {addr : HostAddr} {v : Word} {rest : List HostOp}

theorem memRead_ok_iff : (memRead s addr).1 = .ok ↔ refusedRead s addr = none := by
  cases h : refusedRead s addr <;> simp [memRead, h]

theorem memRead_err_iff_refused : (memRead s addr).1 = .err ↔ ∃ why, refusedRead s addr = some why := by
  cases h : refusedRead s addr <;> simp [memRead, h]

theorem memWrite_ok_iff : (memWrite s addr v).1 = .ok ↔ refusedWrite s addr v = none := by
  cases h : refusedWrite s addr v <;> simp [memWrite, h]

theorem memWrite_err_iff_refused : (memWrite s addr v).1 = .err ↔ ∃ why, refusedWrite s addr v = some why := by
  cases h : refusedWrite s addr v <;> simp [memWrite, h]

theorem hostStep_rd_ok (h : refusedRead s addr = none) :
    hostStep (.rd addr) rest s = .next (hostRead (s.taken rest) addr) := by simp [hostStep, h, State.taken]

theorem hostStep_rd_refused {why : RefusedWhy} (h : refusedRead s addr = some why) :
    hostStep (.rd addr) rest s = .fault (.scriptRefused why) := by simp [hostStep, h]

theorem hostStep_wr_ok (h : refusedWrite s addr v = none) :
    hostStep (.wr addr v) rest s = .next (hostWrite (s.taken rest) addr v) := by simp [hostStep, h, State.taken]

theorem hostStep_wr_refused {why : RefusedWhy} (h : refusedWrite s addr v = some why) :
    hostStep (.wr addr v) rest s = .fault (.scriptRefused why) := by simp [hostStep, h]

/-- Taking an event off the list does not change what a read answers. -/
theorem memRead_taken (s : State) (rest : List HostOp) (addr : HostAddr) :
    memRead (s.taken rest) addr = memRead s addr := rfl

theorem memWrite_cfg (s : State) (addr : HostAddr) (v : Word) : (memWrite s addr v).2.cfg = s.cfg := by
  rcases memWrite_cases s addr v with
    ⟨-, he⟩ | ⟨-, -, ⟨-, he⟩ | ⟨-, he⟩ | ⟨-, he⟩ | ⟨b, -, -, he⟩ | ⟨a, -, he⟩⟩ <;> rw [he]
  exact s.issue_cfg v

/-- Taking an event off the list does not change what a write does, but for the list and the count of events that get in
before the completion. -/
theorem memWrite_taken (s : State) (rest : List HostOp) (addr : HostAddr) (v : Word) :
    (memWrite (s.taken rest) addr v).1 = (memWrite s addr v).1
      ∧ ∃ n, (memWrite (s.taken rest) addr v).2 = { (memWrite s addr v).2 with pending := rest, delay := n } := by
  unfold memWrite
  rw [refusedWrite_taken]
  cases refusedWrite s addr v with
  | some why => exact ⟨rfl, _, rfl⟩
  | none =>
    refine ⟨rfl, ?_⟩
    cases ht : target s.cfg addr <;> simp only [applyWrite, target_taken, ht] <;> exact ⟨_, rfl⟩

end Lines

/-- Settles O20: a line that is not refused is a transaction of the state with the line off the list; one that is refused
is the fault. -/
theorem scriptLineFaultsExactlyOnErr : Obligations.ScriptLineFaultsExactlyOnErr := by
  intro s addr rest hturn
  refine ⟨fun hp => ⟨fun hok => ?_, fun herr => ?_⟩, fun v hp => ⟨fun hok => ?_, fun herr => ?_⟩⟩ <;>
    rw [step_eq_hostStep hturn hp]
  · refine ⟨_, hostStep_rd_ok (memRead_ok_iff.mp hok), ?_, rfl, rfl, rfl, rfl, rfl, rfl, rfl, rfl, rfl, rfl⟩
    simp [hostRead, memRead_taken, hok]
  · obtain ⟨why, h⟩ := memRead_err_iff_refused.mp herr
    exact ⟨why, hostStep_rd_refused h⟩
  · obtain ⟨hresp, n, hw⟩ := memWrite_taken s rest addr v
    refine ⟨_, hostStep_wr_ok (memWrite_ok_iff.mp hok), ?_⟩
    rw [hostWrite, hw, hresp, hok]
    exact ⟨rfl, rfl, memWrite_cfg s addr v, rfl, rfl, rfl, rfl, rfl, rfl, rfl, rfl⟩
  · obtain ⟨why, h⟩ := memWrite_err_iff_refused.mp herr
    exact ⟨why, hostStep_wr_refused h⟩

end Sys2Proof.Machine
end

section
/-! PROOF. The one rounding (40_numerics.md R42) and the value of a pattern (R40). The magnitude is strictly increasing in the
pattern, so the exact magnitude lies between those of two neighbouring patterns; `roundMag` takes the nearer one, the even one
when it lies midway, and infinity when the one taken lies above it (`roundMag_between`). -/

namespace Sys2Proof.Machine

/-! ## The magnitude of a pattern (R40) -/

/-- The pattern with `q` as its significand and `g` bits dropped below it; `q = 2^53` is the carry into the next binade. -/
theorem magOf_scaled {g q : Nat} (hq : q ≤ 2 ^ 53) (hg : g = 0 ∨ 2 ^ 52 ≤ q) : magOf (g * 2 ^ 52 + q) = q * 2 ^ g := by
  rcases Nat.lt_or_ge q (2 ^ 52) with hlt | hge
  · obtain rfl : g = 0 := hg.resolve_right (by omega)
    rw [Nat.zero_mul, Nat.zero_add, magOf, if_pos (Nat.div_eq_of_lt hlt), Nat.pow_zero, Nat.mul_one]
  rcases Nat.lt_or_eq_of_le hq with hlt | rfl
  · have he : (g * 2 ^ 52 + q) / 2 ^ 52 = g + 1 := by omega
    have hf : 2 ^ 52 + (g * 2 ^ 52 + q) % 2 ^ 52 = q := by omega
    rw [magOf, he, hf, if_neg (by omega), Nat.add_sub_cancel]
  · have he : (g * 2 ^ 52 + 2 ^ 53) / 2 ^ 52 = g + 1 + 1 := by omega
    have hf : 2 ^ 52 + (g * 2 ^ 52 + 2 ^ 53) % 2 ^ 52 = 2 ^ 52 := by omega
    rw [magOf, he, hf, if_neg (by omega), Nat.add_sub_cancel, pow_succ' 2 g, ← Nat.mul_assoc]
    rfl

theorem exists_scaled (p : Nat) : ∃ g q, p = g * 2 ^ 52 + q ∧ q < 2 ^ 53 ∧ (g = 0 ∨ 2 ^ 52 ≤ q) :=
  ⟨p / 2 ^ 52 - 1, p - (p / 2 ^ 52 - 1) * 2 ^ 52, by omega, by omega, by omega⟩

theorem magOf_strictMono : StrictMono magOf := by
  refine strictMono_nat_of_lt_succ fun p => ?_
  obtain ⟨g, q, rfl, hq, hg⟩ := exists_scaled p
  rw [Nat.add_assoc, magOf_scaled hq.le hg, magOf_scaled hq (by omega)]
  exact Nat.mul_lt_mul_of_pos_right q.lt_succ_self (Nat.two_pow_pos g)

theorem magOf_mul_le {p p' : Nat} (h : p ≤ p') (t : Nat) : magOf p * 2 ^ t ≤ magOf p' * 2 ^ t :=
  Nat.mul_le_mul_right _ (magOf_strictMono.monotone h)

theorem magOf_infPattern : magOf infPattern = 2 ^ 54 * 2 ^ 2044 := by
  rw [show infPattern = 2046 * 2 ^ 52 + 2 ^ 52 by decide, magOf_scaled (by omega) (by omega)]
  simp only [← Nat.pow_add, Nat.reduceAdd]

theorem magOf_maxFinite : magOf (infPattern - 1) = (2 ^ 54 - 2) * 2 ^ 2044 := by
  have hpow : 2 ^ 2045 = 2 ^ 1 * 2 ^ 2044 := by simp only [← Nat.pow_add, Nat.reduceAdd]
  rw [show infPattern - 1 = 2045 * 2 ^ 52 + (2 ^ 53 - 1) by decide, magOf_scaled (by omega) (by omega), hpow,
    ← Nat.mul_assoc, show (2 ^ 53 - 1) * 2 ^ 1 = 2 ^ 54 - 2 by decide]

/-- The overflow threshold is the middle between the largest finite magnitude and `2^1024`. -/
theorem overflowThreshold_eq : 2 ^ 2098 - 2 ^ 2044 = (2 ^ 54 - 1) * 2 ^ 2044 := by
  have hpow : 2 ^ 2098 = 2 ^ 54 * 2 ^ 2044 := by simp only [← Nat.pow_add, Nat.reduceAdd]
  rw [hpow, Nat.sub_mul, Nat.one_mul]

/-! ## What `roundMag` does (R42) -/

theorem kept_lt (m : Nat) : m / 2 ^ (Nat.log2 m + 1 - 53) < 2 ^ 53 := by
  rw [Nat.div_lt_iff_lt_mul (Nat.two_pow_pos _), ← Nat.pow_add]
  exact Nat.lt_log2_self.trans_le (Nat.pow_le_pow_right (by decide) (by omega))

theorem le_kept {m : Nat} (h : Nat.log2 m + 1 - 53 ≠ 0) : 2 ^ 52 ≤ m / 2 ^ (Nat.log2 m + 1 - 53) := by
  have hm : m ≠ 0 := by rintro rfl; exact h (by decide)
  rw [Nat.le_div_iff_mul_le (Nat.two_pow_pos _), ← Nat.pow_add, show 52 + (Nat.log2 m + 1 - 53) = Nat.log2 m by omega]
  exact Nat.log2_self_le hm

/-- The kept bits `q`, the number `g` of dropped ones and the remainder `r` of a rounding. -/
theorem roundMag_kept (n t : Nat) :
    ∃ g q r, n = q * 2 ^ (t + g) + r ∧ r < 2 ^ (t + g) ∧ q < 2 ^ 53 ∧ (g = 0 ∨ 2 ^ 52 ≤ q)
      ∧ roundMag n t = min (g * 2 ^ 52 +
          if 2 ^ (t + g) < 2 * r ∨ 2 * r = 2 ^ (t + g) ∧ q % 2 = 1 then q + 1 else q) infPattern := by
  set g := Nat.log2 (n / 2 ^ t) + 1 - 53 with hg
  have hq : n / 2 ^ (t + g) = n / 2 ^ t / 2 ^ g := by rw [Nat.div_div_eq_div_mul, Nat.pow_add]
  refine ⟨g, n / 2 ^ (t + g), n % 2 ^ (t + g), (Nat.div_add_mod' n _).symm, Nat.mod_lt _ (Nat.two_pow_pos _),
    hq ▸ kept_lt _, ?_, ?_⟩
  · rw [hq]; exact (Decidable.em (g = 0)).imp_right le_kept
  · simp only [roundMag, ← hg, Bool.or_eq_true, Bool.and_eq_true, decide_eq_true_eq]

/-- `n / 2^t` lies between the magnitudes of the neighbours `L` and `L + 1`, and `v` is the nearer of the two, the even one
when neither is nearer. -/
structure RoundsBetween (n t L v : Nat) : Prop where
  le : magOf L * 2 ^ t ≤ n
  lt : n < magOf (L + 1) * 2 ^ t
  side : v = L ∧ 2 * n ≤ magOf L * 2 ^ t + magOf (L + 1) * 2 ^ t
    ∨ v = L + 1 ∧ magOf L * 2 ^ t + magOf (L + 1) * 2 ^ t ≤ 2 * n
  even : 2 * n = magOf L * 2 ^ t + magOf (L + 1) * 2 ^ t → v % 2 = 0

/-- All that a rounding does: the nearer of the two neighbours, capped at infinity. -/
theorem roundMag_between (n t : Nat) : ∃ L v, RoundsBetween n t L v ∧ roundMag n t = min v infPattern := by
  obtain ⟨g, q, r, hn, hr, hq, hg, hround⟩ := roundMag_kept n t
  have hlo : magOf (g * 2 ^ 52 + q) * 2 ^ t = q * 2 ^ (t + g) := by
    rw [magOf_scaled hq.le hg]; ring
  have hhi : magOf (g * 2 ^ 52 + q + 1) * 2 ^ t = q * 2 ^ (t + g) + 2 ^ (t + g) := by
    rw [Nat.add_assoc, magOf_scaled (q := q + 1) hq (by omega)]; ring
  refine ⟨g * 2 ^ 52 + q, _, ?_, hround⟩
  clear hround
  generalize 2 ^ (t + g) = d at *
  split
  · exact ⟨by omega, by omega, .inr ⟨(Nat.add_assoc _ _ _).symm, by omega⟩, by omega⟩
  · exact ⟨by omega, by omega, .inl ⟨rfl, by omega⟩, by omega⟩

/-! ## Nearest, ties to even -/

/-- The nearer end of an interval is at least as near as any number outside it, and a tie with one means the middle. -/
theorem abs_sub_le_of_between {lo hi n v z : Int} (hlo : lo ≤ n) (hhi : n < hi)
    (hv : v = lo ∧ 2 * n ≤ lo + hi ∨ v = hi ∧ lo + hi ≤ 2 * n) (hz : z ≤ lo ∨ hi ≤ z) :
    |v - n| ≤ |z - n| ∧ (|v - n| = |z - n| → z ≠ v → 2 * n = lo + hi) := by
  rcases abs_cases (v - n) with ⟨h1, _⟩ | ⟨h1, _⟩ <;> rcases abs_cases (z - n) with ⟨h2, _⟩ | ⟨h2, _⟩ <;>
    rw [h1, h2] <;> omega

theorem RoundsBetween.nearest {n t L v : Nat} (h : RoundsBetween n t L v) (p : Nat) :
    |((magOf v * 2 ^ t : Nat) : Int) - n| ≤ |((magOf p * 2 ^ t : Nat) : Int) - n|
    ∧ (|((magOf v * 2 ^ t : Nat) : Int) - n| = |((magOf p * 2 ^ t : Nat) : Int) - n| → p ≠ v → v % 2 = 0) := by
  obtain ⟨hlo, hhi, hside, heven⟩ := h
  have hp : magOf p * 2 ^ t ≤ magOf L * 2 ^ t ∨ magOf (L + 1) * 2 ^ t ≤ magOf p * 2 ^ t :=
    (Nat.lt_or_ge L p).symm.imp (magOf_mul_le · t) (magOf_mul_le · t)
  have hv : magOf v * 2 ^ t = magOf L * 2 ^ t ∧ 2 * n ≤ magOf L * 2 ^ t + magOf (L + 1) * 2 ^ t
      ∨ magOf v * 2 ^ t = magOf (L + 1) * 2 ^ t ∧ magOf L * 2 ^ t + magOf (L + 1) * 2 ^ t ≤ 2 * n :=
    hside.imp (fun ⟨e, h⟩ => ⟨e ▸ rfl, h⟩) fun ⟨e, h⟩ => ⟨e ▸ rfl, h⟩
  have hne (h : p ≠ v) : magOf p * 2 ^ t ≠ magOf v * 2 ^ t := fun he =>
    h (magOf_strictMono.injective (Nat.mul_right_cancel (Nat.two_pow_pos t) he))
  generalize magOf L * 2 ^ t = lo at *
  generalize magOf (L + 1) * 2 ^ t = hi at *
  obtain ⟨hmin, htie⟩ := abs_sub_le_of_between (Int.ofNat_le.mpr hlo) (Int.ofNat_lt.mpr hhi)
    (v := (magOf v * 2 ^ t : Nat)) (z := (magOf p * 2 ^ t : Nat)) (by omega) (by omega)
  refine ⟨hmin, fun heq hpv => heven ?_⟩
  have := htie heq (Int.ofNat_inj.not.mpr (hne hpv))
  omega

/-- Capping at infinity, which is even, comes no farther from `n` than the uncapped pattern or the one compared with. -/
theorem roundMag_nearest (n t : Nat) {p : Nat} (hp : p ≤ infPattern) :
    |((magOf (roundMag n t) * 2 ^ t : Nat) : Int) - n| ≤ |((magOf p * 2 ^ t : Nat) : Int) - n|
    ∧ (|((magOf (roundMag n t) * 2 ^ t : Nat) : Int) - n| = |((magOf p * 2 ^ t : Nat) : Int) - n| → p ≠ roundMag n t →
        roundMag n t % 2 = 0) := by
  obtain ⟨L, v, h, hround⟩ := roundMag_between n t
  rcases Nat.le_total v infPattern with hv | hv
  · rw [hround, Nat.min_eq_left hv]
    exact h.nearest p
  · rw [hround, Nat.min_eq_right hv]
    refine ⟨?_, fun _ _ => by decide⟩
    have hp' := magOf_mul_le hp t
    have hv' := magOf_mul_le hv t
    exact (abs_le_max_abs_abs (by omega) (by omega)).trans (max_le le_rfl (h.nearest p).1)

/-! ## The two thresholds -/

theorem roundMag_overflow {n t : Nat} (h : (2 ^ 2098 - 2 ^ 2044) * 2 ^ t ≤ n) : roundMag n t = infPattern := by
  obtain ⟨L, v, ⟨-, hlt, hside, heven⟩, hround⟩ := roundMag_between n t
  rw [hround, Nat.min_eq_right]
  have hmax : magOf (infPattern - 1) * 2 ^ t = (2 ^ 54 - 2) * (2 ^ 2044 * 2 ^ t) := by rw [magOf_maxFinite, Nat.mul_assoc]
  have hinf : magOf (infPattern - 1 + 1) * 2 ^ t = 2 ^ 54 * (2 ^ 2044 * 2 ^ t) := by
    rw [show infPattern - 1 + 1 = infPattern by decide, magOf_infPattern, Nat.mul_assoc]
  rw [overflowThreshold_eq, Nat.mul_assoc] at h
  have hpos : 0 < 2 ^ 2044 * 2 ^ t := by positivity
  generalize 2 ^ 2044 * 2 ^ t = d at *
  rcases Nat.lt_trichotomy L (infPattern - 1) with hL | rfl | hL
  · have : magOf (L + 1) * 2 ^ t ≤ magOf (infPattern - 1) * 2 ^ t := magOf_mul_le hL t
    omega
  · have hodd : (infPattern - 1) % 2 = 1 := by decide
    rw [hmax, hinf] at hside heven
    omega
  · omega

theorem roundMag_underflow {n t : Nat} (h : 2 * n ≤ 2 ^ t) : roundMag n t = 0 := by
  obtain ⟨L, v, ⟨hle, -, hside, heven⟩, hround⟩ := roundMag_between n t
  have hpos := Nat.two_pow_pos t
  have h0 : magOf 0 * 2 ^ t = 0 := Nat.zero_mul _
  have h1 : magOf (0 + 1) * 2 ^ t = 2 ^ t := Nat.one_mul _
  rcases Nat.eq_zero_or_pos L with rfl | hL
  · rw [h0, h1] at hside heven
    rw [hround, show v = 0 by omega, Nat.zero_min]
  · have : magOf (0 + 1) * 2 ^ t ≤ magOf L * 2 ^ t := magOf_mul_le hL t
    omega

/-! ## Exact and rescaled operands -/

theorem roundMag_magOf {p : Nat} (hp : p ≤ infPattern) : roundMag (magOf p) 0 = p := by
  have h := (roundMag_nearest (magOf p) 0 hp).1
  rw [Nat.pow_zero, Nat.mul_one, Nat.mul_one, sub_self, abs_zero, abs_nonpos_iff, sub_eq_zero, Int.natCast_inj] at h
  exact magOf_strictMono.injective h

theorem roundMag_mul_two_pow (n t k : Nat) : roundMag (n * 2 ^ k) (t + k) = roundMag n t := by
  have hpos := Nat.two_pow_pos k
  have hpow (g : Nat) : 2 ^ (t + k + g) = 2 ^ (t + g) * 2 ^ k := by rw [Nat.add_right_comm, Nat.pow_add]
  have hquot : n * 2 ^ k / 2 ^ (t + k) = n / 2 ^ t := by rw [Nat.pow_add, Nat.mul_div_mul_right _ _ hpos]
  simp only [roundMag, hquot, hpow, Nat.mul_div_mul_right _ _ hpos, Nat.mul_mod_mul_right, ← Nat.mul_assoc,
    Nat.mul_lt_mul_right hpos, Nat.mul_left_inj hpos.ne']

/-! ## The rounded word -/

theorem roundMag_lt (n t : Nat) : roundMag n t < 2 ^ 63 := (roundMag_le n t).trans_lt infPattern_lt

@[simp] theorem signBit_RN (s : Bool) (n t : Nat) : signBit (RN s n t) = s := signBit_withSign s (roundMag_lt n t)

@[simp] theorem absPat_RN (s : Bool) (n t : Nat) : (RN s n t).toNat % 2 ^ 63 = roundMag n t :=
  absPat_withSign s (roundMag_lt n t)

@[simp] theorem fmag_RN (s : Bool) (n t : Nat) : fmag (RN s n t) = magOf (roundMag n t) := by rw [fmag, absPat_RN]

theorem getLsbD_zero_RN (s : Bool) (n t : Nat) : (RN s n t).getLsbD 0 = decide (roundMag n t % 2 = 1) := by
  have := absPat_RN s n t
  rw [BitVec.getLsbD, Nat.testBit_zero, decide_eq_decide]
  omega

/-- `roundMag_nearest` in the terms of `AddIsCorrectlyRounded` and `MulIsCorrectlyRounded`: values and the word's last bit. -/
theorem RN_nearest (s : Bool) (n t : Nat) {g : Nat} (hg : g ≤ infPattern) :
    |((fmag (RN s n t) * 2 ^ t : Nat) : Int) - n| ≤ |((magOf g * 2 ^ t : Nat) : Int) - n|
    ∧ (|((fmag (RN s n t) * 2 ^ t : Nat) : Int) - n| = |((magOf g * 2 ^ t : Nat) : Int) - n| →
        magOf g ≠ fmag (RN s n t) → (RN s n t).getLsbD 0 = false) := by
  rw [fmag_RN, getLsbD_zero_RN, decide_eq_false_iff_not]
  obtain ⟨hmin, htie⟩ := roundMag_nearest n t hg
  refine ⟨hmin, fun heq hne => ?_⟩
  have := htie heq fun h => hne (h ▸ rfl)
  omega

theorem RN_fmag {x : F64} (hx : isFinite x = true) : RN (signBit x) (fmag x) 0 = x := by
  rw [RN, fmag, roundMag_magOf ((isFinite_iff x).mp hx).le, withSign_self]

/-- Settles O23: nearness and the tie rule of `roundMag_nearest`, its bound, the two thresholds, and the sign. -/
theorem roundingIsNearestTiesToEven : Obligations.RoundingIsNearestTiesToEven :=
  ⟨fun n t _ hp => roundMag_nearest n t hp, roundMag_le, fun _ _ => roundMag_overflow, fun _ _ => roundMag_underflow,
    fun s n t => ⟨signBit_RN s n t, absPat_RN s n t⟩⟩

/-! ## The value of a pattern (R40) -/

theorem fmag_eq (x : F64) :
    fmag x = if expField x = 0 then fracField x else (2 ^ 52 + fracField x) * 2 ^ (expField x - 1) := by
  have hexp : x.toNat % 2 ^ 63 / 2 ^ 52 = expField x := by rw [expField_eq]; omega
  have hfrac : x.toNat % 2 ^ 63 % 2 ^ 52 = fracField x := by rw [fracField_eq]; omega
  rw [fmag, magOf, hexp, hfrac]
  split
  · omega
  · rfl

theorem cast_fval (x : F64) : (fval x : ℚ) = (if signBit x then -1 else 1) * (fmag x : ℚ) := by
  rw [fval]; split <;> simp

theorem quantaPerUnit_eq : (2 : ℚ) ^ 1074 = 2 ^ 1022 * 2 ^ 52 := by simp only [← pow_add, Nat.reduceAdd]

theorem subnormal_value (f : Nat) : (f : ℚ) / 2 ^ 1074 = (2 : ℚ) ^ (-1022 : ℤ) * (f / 2 ^ 52) := by
  rw [quantaPerUnit_eq, zpow_neg, zpow_ofNat, mul_comm, ← div_div, inv_mul_eq_div]

theorem normal_value (f k : Nat) :
    (((2 ^ 52 + f) * 2 ^ k : Nat) : ℚ) / 2 ^ 1074 = (2 : ℚ) ^ ((k + 1 : Nat) - 1023 : ℤ) * (1 + f / 2 ^ 52) := by
  have hk : ((k + 1 : Nat) - 1023 : ℤ) = (k : ℤ) - (1022 : Nat) := by push_cast; ring
  rw [quantaPerUnit_eq, hk, zpow_sub₀ two_ne_zero, zpow_natCast, zpow_natCast, mul_comm (_ + f), Nat.cast_mul,
    mul_div_mul_comm, Nat.cast_add, add_div, Nat.cast_pow, Nat.cast_pow, Nat.cast_ofNat, div_self (by norm_num)]

/-- Settles O24: the subnormal and the normal row of R40's table. -/
theorem patternHasTheTableValue : Obligations.PatternHasTheTableValue := by
  intro x _
  rw [cast_fval, mul_div_assoc, fmag_eq]
  congr 1
  split
  · exact subnormal_value _
  · next he =>
    obtain ⟨k, hk⟩ := Nat.exists_eq_succ_of_ne_zero he
    rw [hk]
    exact normal_value _ k

end Sys2Proof.Machine
end

section
/-! PROOF. The scalar and complex operations and the integer helpers (40_numerics.md R43 to R54): one lemma for each case of
`fadd` and of `fmul`, and from these the cases and the consequences that the rules state. -/

namespace Sys2Proof.Machine

/-! ## The classes of a pattern -/

theorem isNaN_of_isInf {x : F64} (h : isInf x = true) : isNaN x = false := by
  rw [← Bool.not_eq_true, isNaN_iff, (isInf_iff x).mp h]; exact lt_irrefl _

theorem isZero_of_isInf {x : F64} (h : isInf x = true) : isZero x = false := by
  rw [← Bool.not_eq_true, isZero_iff, (isInf_iff x).mp h]; decide

theorem isFinite_of_isZero {x : F64} (h : isZero x = true) : isFinite x = true := by
  rw [isFinite_iff, (isZero_iff x).mp h]; decide

theorem class_cases (x : F64) : isNaN x = true ∨ isInf x = true ∨ isFinite x = true := by
  rw [isNaN_iff, isInf_iff, isFinite_iff]; omega

theorem isZero_iff_fmag (x : F64) : isZero x = true ↔ fmag x = 0 := by
  rw [isZero_iff]
  exact (magOf_strictMono.injective.eq_iff (b := 0)).symm

theorem isZero_iff_fval (x : F64) : isZero x = true ↔ fval x = 0 := by
  rw [isZero_iff_fmag, fval]; split <;> omega

theorem eq_of_absPat {x y : F64} (hs : signBit x = signBit y) (h : x.toNat % 2 ^ 63 = y.toNat % 2 ^ 63) : x = y := by
  rw [← withSign_self x, hs, h, withSign_self]

theorem eq_of_isInf {x y : F64} (hx : isInf x = true) (hy : isInf y = true) (hs : signBit x = signBit y) : x = y :=
  eq_of_absPat hs (((isInf_iff x).mp hx).trans ((isInf_iff y).mp hy).symm)

theorem eq_of_isZero {x y : F64} (hx : isZero x = true) (hy : isZero y = true) (hs : signBit x = signBit y) : x = y :=
  eq_of_absPat hs (((isZero_iff x).mp hx).trans ((isZero_iff y).mp hy).symm)

/-! ## The cases of `fadd` (R43) -/

theorem fadd_opposite_infinities {x y : F64} (hx : isInf x = true) (hy : isInf y = true) (hs : signBit x ≠ signBit y)
    (p : Site) : fadd p x y = freeNaN p := by
  simp [fadd, isNaN_of_isInf, hx, hy, hs]

theorem fadd_inf_left {x y : F64} (hx : isInf x = true) (hy : isNaN y = false)
    (hs : isInf y = true → signBit x = signBit y) (p : Site) : fadd p x y = x := by
  simpa [fadd, isNaN_of_isInf hx, hx, hy] using fun hi hne => absurd (hs hi) hne

theorem fadd_inf_right {x y : F64} (hy : isInf y = true) (hx : isNaN x = false)
    (hs : isInf x = true → signBit x = signBit y) (p : Site) : fadd p x y = y := by
  by_cases hi : isInf x = true
  · rw [fadd_inf_left hi (isNaN_of_isInf hy) fun _ => hs hi, eq_of_isInf hi hy (hs hi)]
  · simp [fadd, isNaN_of_isInf hy, hx, hy, hi]

theorem fadd_zeros {x y : F64} (hx : isZero x = true) (hy : isZero y = true) (p : Site) :
    fadd p x y = if signBit x = signBit y then x else posZero := by
  obtain ⟨hxn, hxi⟩ := (isFinite_iff_not x).mp (isFinite_of_isZero hx)
  obtain ⟨hyn, hyi⟩ := (isFinite_iff_not y).mp (isFinite_of_isZero hy)
  simp [fadd, hxn, hxi, hyn, hyi, hx, hy]

theorem fadd_finite {x y : F64} (hx : isFinite x = true) (hy : isFinite y = true)
    (hz : ¬ (isZero x = true ∧ isZero y = true)) (p : Site) :
    fadd p x y = if fval x + fval y = 0 then posZero
      else RN (decide (fval x + fval y < 0)) (fval x + fval y).natAbs 0 := by
  obtain ⟨hxn, hxi⟩ := (isFinite_iff_not x).mp hx
  obtain ⟨hyn, hyi⟩ := (isFinite_iff_not y).mp hy
  rw [← Bool.and_eq_true, Bool.not_eq_true] at hz
  simp [fadd, hxn, hxi, hyn, hyi, hz]

/-- Settles O25: each case of the sum in turn; a non-zero finite sum is the rounding of the exact one. -/
theorem addIsCorrectlyRounded : Obligations.AddIsCorrectlyRounded := by
  intro p x y
  refine ⟨?_, fun hx hy hs => ?_, fun hx hy hs => fadd_inf_left hx hy hs p, fun hy hx hs => fadd_inf_right hy hx hs p,
    fun hx hy => fadd_zeros hx hy p, fun hx hy hz h0 => ?_, fun hx hy h0 => ?_⟩
  · rintro (h | h)
    · rw [fadd_nan_left h, isQuietNaN_freeNaN]
    · rw [fadd_nan_right h, isQuietNaN_freeNaN]
  · rw [fadd_opposite_infinities hx hy hs, isQuietNaN_freeNaN]
  · rw [fadd_finite hx hy (by simp [hz]), if_pos h0]
  · have hz : ¬ (isZero x = true ∧ isZero y = true) := fun ⟨hxz, hyz⟩ =>
      h0 (by rw [(isZero_iff_fval x).mp hxz, (isZero_iff_fval y).mp hyz, add_zero])
    rw [fadd_finite hx hy hz, if_neg h0]
    refine ⟨isNaN_RN _ _ _, by rw [signBit_RN, decide_eq_true_iff], fun g hg => ?_⟩
    simpa using RN_nearest (decide (fval x + fval y < 0)) (fval x + fval y).natAbs 0 hg

/-! ## The cases of `fmul` (R45) -/

theorem fmul_comm (p : Site) (x y : F64) : fmul p x y = fmul p y x := by
  simp only [fmul, Bool.or_comm (isNaN x), Bool.or_comm (isInf x), Bool.or_comm (isZero x), Nat.mul_comm (fmag x),
    Bool.and_comm (isInf x), Bool.and_comm (isZero x), Bool.or_comm (isZero y && isInf x), bne_comm]

theorem fmul_inf_zero {x y : F64} (hx : isInf x = true) (hy : isZero y = true) (p : Site) : fmul p x y = freeNaN p := by
  simp [fmul, hx, hy]

theorem fmul_inf {x y : F64} (h : isInf x = true ∨ isInf y = true) (hx : isNaN x = false) (hy : isNaN y = false)
    (hxz : isZero x = false) (hyz : isZero y = false) (p : Site) :
    fmul p x y = withSign (signBit x != signBit y) infPattern := by
  simp [fmul, hx, hy, hxz, hyz, h]

theorem fmul_zero {x y : F64} (h : isZero x = true ∨ isZero y = true) (hx : isFinite x = true) (hy : isFinite y = true)
    (p : Site) : fmul p x y = withSign (signBit x != signBit y) 0 := by
  obtain ⟨hxn, hxi⟩ := (isFinite_iff_not x).mp hx
  obtain ⟨hyn, hyi⟩ := (isFinite_iff_not y).mp hy
  simp [fmul, hxn, hxi, hyn, hyi, h]

theorem fmul_finite {x y : F64} (hx : isFinite x = true) (hy : isFinite y = true) (hxz : isZero x = false)
    (hyz : isZero y = false) (p : Site) :
    fmul p x y = RN (signBit x != signBit y) (fmag x * fmag y) 1074 := by
  obtain ⟨hxn, hxi⟩ := (isFinite_iff_not x).mp hx
  obtain ⟨hyn, hyi⟩ := (isFinite_iff_not y).mp hy
  simp [fmul, hxn, hxi, hyn, hyi, hxz, hyz]

/-- Settles O26: each case of the product in turn; a non-zero finite product is the rounding of the exact one. -/
theorem mulIsCorrectlyRounded : Obligations.MulIsCorrectlyRounded := by
  intro p x y
  refine ⟨?_, fun hx hy => ?_, fun h hx hy hxz hyz => ?_, fun h hx hy => ?_, fun hx hy hxz hyz => ?_⟩
  · rintro (h | h)
    · rw [fmul_nan_left h, isQuietNaN_freeNaN]
    · rw [fmul_nan_right h, isQuietNaN_freeNaN]
  · rw [fmul_comm p y, fmul_inf_zero hx hy]
    exact ⟨isQuietNaN_freeNaN p, isQuietNaN_freeNaN p⟩
  · rw [fmul_inf h hx hy hxz hyz, isInf_iff, absPat_withSign _ infPattern_lt, signBit_withSign _ infPattern_lt]
    exact ⟨rfl, rfl⟩
  · rw [fmul_zero h hx hy, isZero_iff, absPat_withSign _ (by decide), signBit_withSign _ (by decide)]
    exact ⟨rfl, rfl⟩
  · rw [fmul_finite hx hy hxz hyz]
    exact ⟨isNaN_RN _ _ _, signBit_RN _ _ _, fun g hg => RN_nearest _ _ _ hg⟩

/-! ## Produced NaNs (R47) -/

theorem isNaN_fadd (p : Site) (x y : F64) : isNaN (fadd p x y) = faddIsNaN x y := by
  rcases fadd_cases x y with ⟨hn, h⟩ | ⟨hn, v, hv, h⟩
  · rw [h, hn, isNaN_freeNaN]
  · rw [h, hn, hv]

theorem isNaN_fmul (p : Site) (x y : F64) : isNaN (fmul p x y) = fmulIsNaN x y := by
  rcases fmul_cases x y with ⟨hn, h⟩ | ⟨hn, v, hv, h⟩
  · rw [h, hn, isNaN_freeNaN]
  · rw [h, hn, hv]

theorem isQuietNaN_fadd {p : Site} {x y : F64} (h : isNaN (fadd p x y) = true) : isQuietNaN (fadd p x y) = true := by
  rcases fadd_cases x y with ⟨-, hv⟩ | ⟨-, v, hn, hv⟩
  · rw [hv, isQuietNaN_freeNaN]
  · rw [hv, hn] at h; contradiction

theorem isQuietNaN_fmul {p : Site} {x y : F64} (h : isNaN (fmul p x y) = true) : isQuietNaN (fmul p x y) = true := by
  rcases fmul_cases x y with ⟨-, hv⟩ | ⟨-, v, hn, hv⟩
  · rw [hv, isQuietNaN_freeNaN]
  · rw [hv, hn] at h; contradiction

/-- Settles O31: a result that is a NaN is the free one, which is quiet, and a NaN operand makes the result one. -/
theorem producedNaNsAreQuiet : Obligations.ProducedNaNsAreQuiet := by
  intro p x y
  refine ⟨isQuietNaN_fadd, ?_, isQuietNaN_fmul, fun h => ?_⟩
  · rw [fsub_eq]; exact isQuietNaN_fadd
  · rw [fsub_eq, isNaN_fadd, isNaN_fadd, isNaN_fmul]
    rcases h with h | h <;> simp [faddIsNaN, fmulIsNaN, h]

/-! ## Consequences for `fadd` and `fsub` (R43, R44) -/

theorem fadd_comm_of_isInf {x : F64} (hx : isInf x = true) (p : Site) (y : F64) : fadd p x y = fadd p y x := by
  rcases Bool.eq_false_or_eq_true (isNaN y) with hy | hy
  · rw [fadd_nan_right hy, fadd_nan_left hy]
  by_cases hs : isInf y = true → signBit x = signBit y
  · rw [fadd_inf_left hx hy hs, fadd_inf_right hx hy fun h => (hs h).symm]
  · obtain ⟨hyi, hne⟩ := Classical.not_imp.mp hs
    rw [fadd_opposite_infinities hx hyi hne, fadd_opposite_infinities hyi hx (Ne.symm hne)]

theorem fadd_comm_of_isFinite {x y : F64} (hx : isFinite x = true) (hy : isFinite y = true) (p : Site) :
    fadd p x y = fadd p y x := by
  by_cases hz : isZero x = true ∧ isZero y = true
  · obtain ⟨hxz, hyz⟩ := hz
    rw [fadd_zeros hxz hyz, fadd_zeros hyz hxz]
    by_cases hs : signBit x = signBit y
    · rw [eq_of_isZero hxz hyz hs]
    · rw [if_neg hs, if_neg (Ne.symm hs)]
  · rw [fadd_finite hx hy hz, fadd_finite hy hx (by rwa [and_comm]), add_comm]

theorem fadd_comm (p : Site) (x y : F64) : fadd p x y = fadd p y x := by
  rcases class_cases x with hx | hx | hx
  · rw [fadd_nan_left hx, fadd_nan_right hx]
  · exact fadd_comm_of_isInf hx p y
  rcases class_cases y with hy | hy | hy
  · rw [fadd_nan_right hy, fadd_nan_left hy]
  · exact (fadd_comm_of_isInf hy p x).symm
  · exact fadd_comm_of_isFinite hx hy p

theorem sameWord_fadd_comm (p p' : Site) (x y : F64) : SameWord (fadd p x y) (fadd p' y x) :=
  fadd_comm p x y ▸ sameWord_fadd_site p p' y x

theorem fadd_zero_right {x z : F64} (hx : isNaN x = false) (hxz : isZero x = false) (hz : isZero z = true) (p : Site) :
    fadd p x z = x := by
  have hzf := isFinite_of_isZero hz
  obtain ⟨hzn, hzi⟩ := (isFinite_iff_not z).mp hzf
  by_cases hi : isInf x = true
  · exact fadd_inf_left hi hzn (by simp [hzi]) p
  have hxf : isFinite x = true := (isFinite_iff_not x).mpr ⟨hx, by simpa using hi⟩
  have hpos : 0 < fmag x := Nat.pos_of_ne_zero fun h => by simp [(isZero_iff_fmag x).mpr h] at hxz
  have hval : fval x ≠ 0 := fun h => by simp [(isZero_iff_fval x).mpr h] at hxz
  have hsign : decide (fval x < 0) = signBit x := by rw [fval]; cases signBit x <;> simp; omega
  have habs : (fval x).natAbs = fmag x := by rw [fval]; split <;> simp
  rw [fadd_finite hxf hzf (by simp [hxz]), (isZero_iff_fval z).mp hz, add_zero, if_neg hval, hsign, habs, RN_fmag hxf]

/-- Settles O27: the exact sum with a zero is the value itself, which rounds to its own pattern. -/
theorem addZeroAndCommute : Obligations.AddZeroAndCommute := by
  refine ⟨fun p x hx hxz => ⟨fadd_zero_right hx hxz (by decide) p, fadd_zero_right hx hxz (by decide) p⟩, fun p => ?_,
    sameWord_fadd_comm⟩
  rw [fadd_zeros (by decide) (by decide)]
  decide

theorem fsub_self {x : F64} (hx : isFinite x = true) (p : Site) : fsub p x x = posZero := by
  have hneg : isFinite (fneg x) = true := by rwa [isFinite_iff, absPat_fneg, ← isFinite_iff]
  rw [fsub_eq]
  by_cases hz : isZero x = true
  · rw [fadd_zeros hz (by rwa [isZero_fneg]), signBit_fneg, if_neg (by simp)]
  · rw [fadd_finite hx hneg (by simp [hz]), fval_fneg, if_pos (add_neg_cancel _)]

/-- Settles O28: `fsub` is the sum with the negated operand (`fsub_eq`), read through the cases of the sum. -/
theorem subOfEqualsIsPlusZero : Obligations.SubOfEqualsIsPlusZero := by
  refine ⟨fun p x hx => fsub_self hx p, fun p x y _ => fsub_eq p x y, fun p x y hy => ?_, fun p => ?_, fun p => ?_⟩
  · rw [fsub_eq, fadd_nan_right (by rwa [isNaN_fneg]), isNaN_freeNaN]
  · rw [fsub_eq, fsub_eq, fadd_zeros (by decide) (by decide), fadd_zeros (by decide) (by decide)]
    decide
  · rw [fsub_eq, fadd_opposite_infinities (by decide) (by decide) (by decide), isNaN_freeNaN]

/-! ## Negation (R46) -/

theorem getLsbD_fneg (x : F64) {i : Nat} (hi : i < 64) : (fneg x).getLsbD i = (x.getLsbD i ^^ decide (i = 63)) := by
  rw [fneg, BitVec.getLsbD_xor, show (0x8000000000000000 : F64) = BitVec.twoPow 64 63 by decide, BitVec.getLsbD_twoPow]
  simp [hi]; omega

theorem fneg_withSign (s : Bool) {p : Nat} (hp : p < 2 ^ 63) : fneg (withSign s p) = withSign (!s) p := by
  rw [fneg_eq, absPat_withSign s hp, signBit_withSign s hp]

/-- Settles O30: `fneg` is the exclusive or with bit 63 alone. -/
theorem negFlipsBit63Only : Obligations.NegFlipsBit63Only := by
  refine fun x => ⟨fun i hi => ?_, ?_, fneg_fneg x⟩
  · rw [getLsbD_fneg x (by omega), decide_eq_false (by omega), Bool.xor_false]
  · rw [getLsbD_fneg x (by omega), decide_eq_true rfl, Bool.xor_true]

/-! ## Consequences for `fmul` (R45) -/

theorem sameWord_fmul_comm (p p' : Site) (x y : F64) : SameWord (fmul p x y) (fmul p' y x) :=
  fmul_comm p x y ▸ sameWord_fmul_site p p' y x

/-- The pattern below the sign of a product that is no NaN; the signs of the operands do not enter it. -/
def mulPattern (x y : F64) : Nat :=
  if isInf x || isInf y then infPattern else if isZero x || isZero y then 0 else roundMag (fmag x * fmag y) 1074

theorem mulPattern_lt (x y : F64) : mulPattern x y < 2 ^ 63 := by
  unfold mulPattern
  split
  · exact infPattern_lt
  split
  · decide
  · exact roundMag_lt _ _

@[simp] theorem mulPattern_fneg (x y : F64) : mulPattern (fneg x) y = mulPattern x y := by simp [mulPattern]

@[simp] theorem fmulIsNaN_fneg (x y : F64) : fmulIsNaN (fneg x) y = fmulIsNaN x y := by simp [fmulIsNaN]

theorem fmul_eq_withSign {x y : F64} (h : fmulIsNaN x y = false) (p : Site) :
    fmul p x y = withSign (signBit x != signBit y) (mulPattern x y) := by
  obtain ⟨hn, hi⟩ := Bool.or_eq_false_iff.mp h
  simp only [fmul, hn, hi, mulPattern, Bool.false_eq_true, if_false]
  split
  · rfl
  split <;> rfl

theorem fmul_fneg {x y : F64} (h : fmulIsNaN x y = false) (p p' : Site) : fmul p (fneg x) y = fneg (fmul p' x y) := by
  rw [fmul_eq_withSign ((fmulIsNaN_fneg x y).trans h), fmul_eq_withSign h, fneg_withSign _ (mulPattern_lt x y),
    mulPattern_fneg, signBit_fneg, Bool.not_bne]

theorem sameWord_fmul_fneg (p p' : Site) (x y : F64) : SameWord (fmul p (fneg x) y) (fneg (fmul p' x y)) := by
  rcases Bool.eq_false_or_eq_true (fmulIsNaN x y) with h | h
  · exact .inr ⟨by rw [isNaN_fmul, fmulIsNaN_fneg, h], by rw [isNaN_fneg, isNaN_fmul, h]⟩
  · exact .inl (fmul_fneg h p p')

/-! ## Multiplying by `2^(-n)` (R41, R49) -/

theorem toNat_twoPowNeg (n : Nat) : (twoPowNeg n).toNat = (1023 - n) * 2 ^ 52 := by
  rw [twoPowNeg, BitVec.toNat_ofNat]; omega

theorem signBit_twoPowNeg (n : Nat) : signBit (twoPowNeg n) = false := by
  rw [signBit_eq, toNat_twoPowNeg, decide_eq_false_iff_not]; omega

theorem isFinite_twoPowNeg (n : Nat) : isFinite (twoPowNeg n) = true := by
  rw [isFinite_iff, toNat_twoPowNeg, infPattern]; omega

theorem isZero_twoPowNeg {n : Nat} (hn : n ≤ 1022) : isZero (twoPowNeg n) = false := by
  rw [← Bool.not_eq_true, isZero_iff, toNat_twoPowNeg]; omega

theorem fmag_twoPowNeg {n : Nat} (hn : n ≤ 1022) : fmag (twoPowNeg n) = 2 ^ (1074 - n) := by
  have hpat : (twoPowNeg n).toNat % 2 ^ 63 = (1022 - n) * 2 ^ 52 + 2 ^ 52 := by rw [toNat_twoPowNeg]; omega
  rw [fmag, hpat, magOf_scaled (by decide) (by omega), ← Nat.pow_add]
  congr 1; omega

theorem fmulIsNaN_twoPowNeg {x : F64} {n : Nat} (hn : n ≤ 1022) (hx : isNaN x = false) :
    fmulIsNaN x (twoPowNeg n) = false := by
  obtain ⟨hcn, hci⟩ := (isFinite_iff_not _).mp (isFinite_twoPowNeg n)
  simp [fmulIsNaN, hx, hcn, hci, isZero_twoPowNeg hn]

theorem fmul_twoPowNeg {x : F64} {n : Nat} (hn : n ≤ 1022) (hx : isFinite x = true) (hxz : isZero x = false) (p : Site) :
    fmul p x (twoPowNeg n) = RN (signBit x) (fmag x) n := by
  rw [fmul_finite hx (isFinite_twoPowNeg n) hxz (isZero_twoPowNeg hn), fmag_twoPowNeg hn, signBit_twoPowNeg,
    Bool.bne_false, RN, RN, ← roundMag_mul_two_pow _ n (1074 - n), show n + (1074 - n) = 1074 by omega]

/-- Settles O33: the factor only moves the binary point of the exact magnitude, and the rounding is of the same number. -/
theorem scalingIsCorrectlyRoundedDivision : Obligations.ScalingIsCorrectlyRoundedDivision :=
  fun p _ _ hn hx hxz => fmul_twoPowNeg (hn.trans (by decide)) hx hxz p

theorem fmul_one {x : F64} (hx : isNaN x = false) (p : Site) : fmul p x fOne = x := by
  have hsign : (signBit x != signBit fOne) = signBit x := Bool.bne_false _
  by_cases hi : isInf x = true
  · rw [fmul_inf (.inl hi) hx (by decide) (isZero_of_isInf hi) (by decide), hsign, ← (isInf_iff x).mp hi, withSign_self]
  have hxf : isFinite x = true := (isFinite_iff_not x).mpr ⟨hx, by simpa using hi⟩
  by_cases hz : isZero x = true
  · rw [fmul_zero (.inl hz) hxf (by decide), hsign, ← (isZero_iff x).mp hz, withSign_self]
  · rw [show fOne = twoPowNeg 0 by decide, fmul_twoPowNeg (by decide) hxf (by simpa using hz), RN_fmag hxf]

theorem fmul_negOne {x : F64} (hx : isNaN x = false) (p : Site) : fmul p x fNegOne = fneg x := by
  have hnan : fmulIsNaN fOne x = false := by rw [← isNaN_fmul p, fmul_comm, fmul_one hx, hx]
  rw [fmul_comm, show fNegOne = fneg fOne by decide, fmul_fneg hnan p p, fmul_comm, fmul_one hx]

/-- Settles O29: 1.0 is `2^0`, -1.0 its negation, and signs meet only in the sign of the product. -/
theorem mulUnitSignAndCommute : Obligations.MulUnitSignAndCommute :=
  ⟨fun p _ hx => ⟨fmul_one hx p, fmul_negOne hx p⟩, sameWord_fmul_comm, fun p p' x y _ _ => sameWord_fmul_fneg p p' x y⟩

/-! ## Complex operations (R49, R54) -/

/-- The real parts multiply the same pairs; the two products of the imaginary part also change places in their sum. -/
theorem sameSample_cmul_comm (p p' : Site) (x y : Sample) : SameSample (cmul p x y) (cmul p' y x) where
  re := (sameWord_fmul_comm _ _ _ _).fsub (sameWord_fmul_comm _ _ _ _) _ _
  im := (sameWord_fadd_comm _ _ _ _).trans ((sameWord_fmul_comm _ _ _ _).fadd (sameWord_fmul_comm _ _ _ _) (3 :: p') _)

theorem cscale_cconj {x : Sample} {n : Nat} (hn : n ≤ 1022) (hre : isNaN x.re = false) (him : isNaN x.im = false)
    (p p' : Site) : cscale p (cconj x) n = cconj (cscale p' x n) := by
  have hre' : fmul (0 :: p) x.re (twoPowNeg n) = fmul (0 :: p') x.re (twoPowNeg n) :=
    (sameWord_fmul_site _ _ _ _).eq_of_not_nan (by rw [isNaN_fmul, fmulIsNaN_twoPowNeg hn hre])
  have him' := fmul_fneg (fmulIsNaN_twoPowNeg hn him) (1 :: p) (1 :: p')
  simp only [cscale, cconj, hre', him']

/-- Settles O32: the scalar commutations, part by part, and the sign moved out of the product of the imaginary part. -/
theorem complexProductCommutes : Obligations.ComplexProductCommutes :=
  ⟨sameSample_cmul_comm, fun p p' _ _ hn hre him => cscale_cconj (hn.trans (by decide)) hre him p p'⟩

/-! ## Integer helpers (R51 to R53) -/

/-- Settles O34: the laws of `isPow2` and `nextPow2`, and the library's test of a power of two by its shared bits. -/
theorem integerHelpersAreAsDefined : Obligations.IntegerHelpersAreAsDefined :=
  ⟨isPow2_iff, fun n => (isPow2_iff n).trans Nat.ne_zero_and_sub_one_eq_zero_iff_isPowerOfTwo.symm,
    fun m _ => ⟨nextPow2_isPow2 m, le_nextPow2 m, fun _ => nextPow2_le⟩, log2_two_pow⟩

end Sys2Proof.Machine
end

section
/-! PROOF. The Sizer/Padder (41_pad.md): the bounds of the padded length (R57, R59), and the command `PAD` (R60 to R62):
each of its tests is a case of `padChecked`, and the command completes with what `padChecked` answers. -/

namespace Sys2Proof.Machine

/-! ## The padded length (R57, R59) -/

theorem nextPow2_lt_two_mul {m : Nat} (hm : 1 ≤ m) : nextPow2 m < 2 * m := by
  unfold nextPow2
  split
  · omega
  · next h =>
    have : 2 ^ Nat.log2 (m - 1) ≤ m - 1 := Nat.log2_self_le (by omega)
    rw [Nat.pow_succ]
    omega

theorem padLen_lt {n : Nat} (hn : 1 ≤ n) (m : Nat) : padLen n m < 4 * max n m := by
  have : padLen n m < 2 * (2 * max n m) := nextPow2_lt_two_mul (by omega)
  omega

/-- A target that covers the length alone decides the padded length. -/
theorem padLen_of_le {n m : Nat} (h : n ≤ m) : padLen n m = nextPow2 (2 * m) := by
  rw [padLen, Nat.max_eq_right h]

/-- Settles O35: `padLen` is `nextPow2` of twice the required length, which is at least 1; the common maximum of two
operands covers each of them. -/
theorem padLenIsTheSmallestPowerOfTwo : Obligations.PadLenIsTheSmallestPowerOfTwo := by
  refine ⟨fun n m hn => ⟨padLen_isPow2 n m, le_padLen n m, fun _ => nextPow2_le, ?_, padLen_lt hn m⟩, fun x y _ _ => ?_⟩
  · have := le_padLen n m
    omega
  · have hx : padLen x (max x y) = nextPow2 (2 * max x y) := padLen_of_le (Nat.le_max_left x y)
    have hy : padLen y (max x y) = nextPow2 (2 * max x y) := padLen_of_le (Nat.le_max_right x y)
    exact ⟨hx.trans hy.symm, hx⟩

/-! ## `PAD` (R58, R60 to R62) -/

theorem cmdResult_pad_of_error {a : BufIx} {m : Nat} {s : State} {k : FailKind}
    (h : padChecked s.cfg (s.operand a) m = .error k) (d : BufIx) : cmdResult (.pad d a m) s = .error k := by
  rw [cmdResult, h]; rfl

theorem cmdResult_pad_of_ok {a : BufIx} {m : Nat} {s : State} {r : List Sample}
    (h : padChecked s.cfg (s.operand a) m = .ok r) (d : BufIx) : cmdResult (.pad d a m) s = .ok (r, false) := by
  rw [cmdResult, h]; rfl

/-- A captured operand is padded with `(+0, +0)` from the buffer's length on. -/
theorem padSeq_operand (s : State) (a : BufIx) (m : Nat) :
    padSeq (s.operand a) m
      = s.operand a ++ List.replicate (padLen (s.lenOf a) m - s.lenOf a) ⟨posZero, posZero⟩ := by
  rw [padSeq, s.operand_length]; rfl

/-- `PAD` with a source that is not empty and a padded length within the capacity. -/
theorem pad_succeeds {a : BufIx} {m : Nat} {s : State} (hc : s.cfg.wf = true) (h0 : s.lenOf a ≠ 0)
    (hP : padLen (s.lenOf a) m ≤ s.cfg.nmax) (d : BufIx) :
    Succeeds (.pad d a m) s (padSeq (s.operand a) m) false := by
  rw [← s.operand_length a] at h0 hP
  exact succeeds_of_result (cmdResult_pad_of_ok (padChecked_fits h0 hP) d) hc (by rwa [padSeq_length])

/-- Settles O44: `PadChecked`'s two failures in their order, and otherwise the padded operand, which is a sequence that the
source may hold. -/
theorem padZeroPadsItsSource : Obligations.PadZeroPadsItsSource := by
  intro d a m s hs
  have hlen : (s.operand a).length = s.lenOf a := s.operand_length a
  refine ⟨fun h0 => ?_, fun h0 hP => ?_, fun h0 hP => ⟨s.operand a, s.mayHold_operand a, ?_⟩⟩
  · exact fails_of_result (cmdResult_pad_of_error (padChecked_empty m (hlen.trans h0)) d)
  · exact fails_of_result (cmdResult_pad_of_error (padChecked_capacity (by rwa [hlen]) (by rwa [hlen])) d)
  · exact padSeq_operand s a m ▸ pad_succeeds hs.cfg_wf h0 hP d

end Sys2Proof.Machine
end

section
/-! PROOF. Twiddle reads and the capacity of the block (42_twiddle_rom.md R64, R69, R70): two blocks whose ROMs are related by
sub-sampling read the same twiddle factors, so the recursion of R79 is the same in both. -/

namespace Sys2Proof.Machine

/-- `TWROM` of `small` is that of `large` with every `2^t`-th entry kept. -/
def SubSampled (small large : Config) (t : Nat) : Prop :=
  ∀ j, j < small.nmax / 2 → small.twrom[j]? = large.twrom[j * 2 ^ t]?

theorem SubSampled.romEntry {small large : Config} {t j : Nat} (h : SubSampled small large t) (hj : j < small.nmax / 2) :
    romEntry small j = romEntry large (j * 2 ^ t) := by
  simp only [Machine.romEntry, List.getD_eq_getElem?_getD, h j hj]

/-- The step of the ROM index in the two blocks: the larger one's is `2^t` times the smaller one's. -/
theorem nmax_div_of_log2Nmax {small large : Config} {t n : Nat} (ht : large.log2Nmax = small.log2Nmax + t)
    (hn : n ≤ small.log2Nmax) : large.nmax / 2 ^ n = small.nmax / 2 ^ n * 2 ^ t := by
  rw [Config.nmax, Config.nmax, ht, Nat.pow_add, Nat.div_mul_right_comm (Nat.pow_dvd_pow 2 hn)]

/-- The twiddle index of R64 stays below `NMAX/2`. -/
theorem twiddleIndex_lt {c : Config} {n k : Nat} (hn : n + 1 ≤ c.log2Nmax) (hk : k < 2 ^ n) :
    k * (c.nmax / 2 ^ (n + 1)) < c.nmax / 2 := by
  obtain ⟨d, hd⟩ := Nat.exists_eq_add_of_le hn
  have hstep : c.nmax / 2 ^ (n + 1) = 2 ^ d := by
    rw [Config.nmax, hd, Nat.pow_add, Nat.mul_div_cancel_left _ (by positivity)]
  have hhalf : c.nmax / 2 = 2 ^ n * 2 ^ d := by
    rw [Config.nmax, hd, Nat.pow_add, Nat.pow_succ, Nat.mul_right_comm, Nat.mul_div_cancel _ (by decide)]
  rw [hstep, hhalf]
  exact Nat.mul_lt_mul_of_pos_right hk (by positivity)

/-- R70: the two blocks read the same twiddle factors for every length that fits the smaller one. -/
theorem SubSampled.twiddle {small large : Config} {t n k : Nat} (h : SubSampled small large t)
    (ht : large.log2Nmax = small.log2Nmax + t) (hn : n + 1 ≤ small.log2Nmax) (hk : k < 2 ^ n) :
    twiddle small (2 ^ (n + 1)) k = twiddle large (2 ^ (n + 1)) k := by
  rw [Machine.twiddle, Machine.twiddle, h.romEntry (twiddleIndex_lt hn hk), nmax_div_of_log2Nmax ht hn, Nat.mul_assoc]

theorem butterflies_congr {c c' : Config} {N : Nat} {E : List Sample}
    (h : ∀ k, k < E.length → twiddle c N k = twiddle c' N k) (p : Site) (O : List Sample) :
    butterflies c p N 0 E O = butterflies c' p N 0 E O := by
  apply List.ext_getElem?
  intro j
  rw [butterflies_getElem?, butterflies_getElem?]
  by_cases hj : j < E.length
  · rw [Nat.zero_add, h j hj]
  · simp only [List.getElem?_eq_none (Nat.le_of_not_lt hj), Option.bind_none]

theorem SubSampled.forwardAt {small large : Config} {t : Nat} (h : SubSampled small large t)
    (ht : large.log2Nmax = small.log2Nmax + t) {n : Nat} (hn : n ≤ small.log2Nmax) (p : Site) {q : List Sample}
    (hq : q.length = 2 ^ n) : forwardAt small n p q = forwardAt large n p q := by
  induction n generalizing p q with
  | zero => rfl
  | succ n ih =>
    obtain ⟨hev, hod⟩ := evens_odds_length (2 ^ n) q (by rw [hq, Nat.pow_succ'])
    have hE : (Machine.forwardAt large n (0 :: p) (evens q)).length = 2 ^ n := forwardAt_length _ _ _ _ hev
    rw [Machine.forwardAt, Machine.forwardAt, ih (by omega) _ hev, ih (by omega) _ hod, combine, combine,
      butterflies_congr fun k hk => h.twiddle ht hn (hE ▸ hk)]

/-- Settles O39: both blocks compute the recursion of R79 with the same twiddle factors. -/
theorem forwardDoesNotDependOnCapacity : Obligations.ForwardDoesNotDependOnCapacity := by
  intro small large t p q _ _ ht h hpow hfits
  obtain ⟨n, hn⟩ := (isPow2_iff _).mp hpow
  have hle : n ≤ small.log2Nmax := (Nat.pow_le_pow_iff_right (by decide)).mp (hn ▸ hfits)
  rw [forward, forward, hn, log2_two_pow]
  exact SubSampled.forwardAt h ht hle p hn

end Sys2Proof.Machine
end

section
/-! PROOF. The default ROM image (42_twiddle_rom.md R63 to R67, R71): its exact entries, its two mirrors with the signs of its
parts, and the distance of four entries from the real cosine and sine. -/

namespace Sys2Proof.Machine

/-! ## Entries (R66), by their angle -/

theorem romEntry_at_zero : romEntry configDefault 0 = ⟨fOne, posZero⟩ := rfl

theorem romEntry_at_pi_div_two : romEntry configDefault 256 = ⟨posZero, fNegOne⟩ := by decide +kernel

theorem romEntry_at_pi_div_four : romEntry configDefault 128 = ⟨0x3FE6A09E667F3BCD, 0xBFE6A09E667F3BCD⟩ := by decide +kernel

theorem romEntry_at_pi_div_eight : romEntry configDefault 64 = ⟨0x3FED906BCF328D46, fneg 0x3FD87DE2A6AEA963⟩ := by
  decide +kernel

/-! ## Mirrors (R67) -/

/-- If `m` entries of a table from `a` on are the entries `1 .. m` in reverse order, each changed by `f`, then entry
`a + m - j` is the changed entry `j`. -/
theorem getElem?_mirror {α : Type} {l : List α} {f : α → α} {a m j : Nat}
    (h : (l.drop a).take m = (((l.drop 1).take m).map f).reverse) (hlen : m < l.length) (h0 : 0 < j) (hj : j ≤ m) :
    l[a + m - j]? = l[j]?.map f := by
  have hl : (((l.drop 1).take m).map f).length = m := by simp; omega
  calc l[a + m - j]? = ((l.drop a).take m)[m - j]? := by
        rw [List.getElem?_take_of_lt (by omega), List.getElem?_drop, Nat.add_sub_assoc hj]
    _ = (((l.drop 1).take m).map f)[j - 1]? := by
        rw [h, List.getElem?_reverse (by omega), hl]; congr 1; omega
    _ = l[j]?.map f := by
        rw [List.getElem?_map, List.getElem?_take_of_lt (by omega), List.getElem?_drop, Nat.add_sub_cancel' h0]

/-- The change of R67 about the quarter of a half period: the parts are exchanged and negated. -/
def quarterMirror (z : Sample) : Sample := ⟨fneg z.im, fneg z.re⟩

/-- The change of R67 about the half of the period: the real part is negated. -/
def halfMirror (z : Sample) : Sample := ⟨fneg z.re, z.im⟩

theorem romEntry_mirror {c : Config} {f : Sample → Sample} {a m j : Nat}
    (h : (c.twrom.drop a).take m = (((c.twrom.drop 1).take m).map f).reverse) (hlen : m < c.twrom.length)
    (h0 : 0 < j) (hj : j ≤ m) : romEntry c (a + m - j) = f (romEntry c j) := by
  have hz : c.twrom[j]? = some (romEntry c j) := by
    rw [romEntry, List.getD_eq_getElem?_getD, List.getElem?_eq_getElem (by omega), Option.getD_some]
  exact romEntry_of_getElem? (by rw [getElem?_mirror h hlen h0 hj, hz, Option.map_some])

theorem romDefault_quarter_symmetry {j : Nat} (hj : j < 256) (h0 : 0 < j) :
    romEntry configDefault (256 - j) = quarterMirror (romEntry configDefault j) :=
  romEntry_mirror (a := 1) (m := 255) (by decide +kernel) (by decide +kernel) h0 (by omega)

theorem romDefault_half_symmetry {j : Nat} (hj : j < 256) (h0 : 0 < j) :
    romEntry configDefault (512 - j) = halfMirror (romEntry configDefault j) :=
  romEntry_mirror (a := 257) (m := 255) (by decide +kernel) (by decide +kernel) h0 (by omega)

/-! ## Signs and magnitudes (R67, R71) -/

/-- R65: the real parts of the lower half are positive. -/
theorem romDefault_re_positive : ∀ j, j < 256 → 0 < j →
    signBit (romEntry configDefault j).re = false ∧ isZero (romEntry configDefault j).re = false := by decide +kernel

/-- R71, `TW-FINITE`. -/
theorem romDefault_finite : configDefault.twFinite = true := by decide +kernel

/-- The imaginary part of the lower half is minus the real part of the mirrored entry. -/
theorem romDefault_im_negative {j : Nat} (hj : j < 256) (h0 : 0 < j) : signBit (romEntry configDefault j).im = true := by
  have hpos := (romDefault_re_positive (256 - j) (by omega) (by omega)).1
  rwa [romDefault_quarter_symmetry hj h0, quarterMirror, signBit_fneg, Bool.not_eq_false'] at hpos

/-- Settles O41: the table's mirrors and the signs of its lower half are checked (R66, R67, R71), and every entry above 256 is
the mirror of one below. -/
theorem defaultRomHasTheStatedSymmetries : Obligations.DefaultRomHasTheStatedSymmetries := by
  refine ⟨romEntry_at_zero, romEntry_at_pi_div_two, romEntry_at_pi_div_four, fun j hj h0 => ?_, fun j hj h0 => ?_,
    romDefault_finite⟩
  · rw [romDefault_quarter_symmetry hj h0]
    exact ⟨rfl, rfl⟩
  obtain hlow | rfl | hhigh := Nat.lt_trichotomy j 256
  · rw [romDefault_half_symmetry hlow h0]
    exact ⟨.inl rfl, rfl, romDefault_im_negative hlow h0, fun _ => romDefault_re_positive j hlow h0, by omega⟩
  · have him : signBit (romEntry configDefault 256).im = true := by rw [romEntry_at_pi_div_two]; rfl
    exact ⟨.inr rfl, rfl, him, by omega, by omega⟩
  · obtain ⟨i, hi, h0i, rfl⟩ : ∃ i, i < 256 ∧ 0 < i ∧ j = 512 - i := ⟨512 - j, by omega, by omega, by omega⟩
    obtain ⟨hsign, hzero⟩ := romDefault_re_positive i hi h0i
    rw [Nat.sub_sub_self (by omega), romDefault_half_symmetry hi h0i, halfMirror, fneg_fneg, signBit_fneg, isZero_fneg, hsign]
    exact ⟨.inl rfl, rfl, romDefault_im_negative hi h0i, by omega, fun _ => ⟨rfl, hzero⟩⟩

/-! ## Accuracy (R63, R65) -/

/-- A pattern of `n * 2^(1074-k)` quanta has the value `n / 2^k`. -/
theorem value_of_fval {x : F64} {n : Int} {k : Nat} (hk : k ≤ 1074) (h : fval x = n * 2 ^ (1074 - k)) :
    (fval x : ℝ) / 2 ^ 1074 = n / 2 ^ k := by
  have hpow : (2 : ℝ) ^ 1074 = 2 ^ k * 2 ^ (1074 - k) := by rw [← pow_add, Nat.add_sub_cancel' hk]
  rw [h, hpow]
  push_cast
  exact mul_div_mul_right _ _ (by positivity)

theorem value_posZero : (fval posZero : ℝ) / 2 ^ 1074 = 0 := by
  rw [value_of_fval (n := 0) (Nat.zero_le _) (by decide +kernel)]; simp

theorem value_fOne : (fval fOne : ℝ) / 2 ^ 1074 = 1 := by
  rw [value_of_fval (n := 1) (Nat.zero_le _) (by decide +kernel)]; simp

theorem value_fNegOne : (fval fNegOne : ℝ) / 2 ^ 1074 = -1 := by
  rw [show fNegOne = fneg fOne from rfl, fval_fneg, Int.cast_neg, neg_div, value_fOne]

/-- `a` is within `e` of `√x / 2` when `x` is between the squares of `2 * (a - e)` and `2 * (a + e)`. -/
theorem abs_sub_sqrt_div_two_le {a e x : ℝ} (hpos : 0 ≤ a + e) (hlo : (2 * (a - e)) ^ 2 ≤ x)
    (hhi : x ≤ (2 * (a + e)) ^ 2) : |a - √x / 2| ≤ e := by
  have h1 : 2 * (a - e) ≤ √x := Real.le_sqrt_of_sq_le hlo
  have h2 : √x ≤ 2 * (a + e) := Real.sqrt_le_iff.mpr ⟨by linarith, hhi⟩
  exact abs_le.mpr ⟨by linarith, by linarith⟩

/-- Two bounds of `√2` that are tight enough for half an ulp of an entry. -/
theorem sqrt_two_bounds : 1.41421356237309504 ≤ √(2 : ℝ) ∧ √(2 : ℝ) ≤ 1.41421356237309505 :=
  ⟨Real.le_sqrt_of_sq_le (by norm_num), Real.sqrt_le_iff.mpr (by norm_num)⟩

theorem cos_pi_div_eight_accurate : |(fval 0x3FED906BCF328D46 : ℝ) / 2 ^ 1074 - Real.cos (Real.pi / 8)| ≤ 1 / 2 ^ 54 := by
  obtain ⟨hlo, hhi⟩ := sqrt_two_bounds
  rw [value_of_fval (n := 0x1D906BCF328D46) (k := 53) (by decide) (by decide +kernel), Int.cast_ofNat, Real.cos_pi_div_eight]
  exact abs_sub_sqrt_div_two_le (by norm_num) (by linarith) (by linarith)

theorem sin_pi_div_eight_accurate : |(fval 0x3FD87DE2A6AEA963 : ℝ) / 2 ^ 1074 - Real.sin (Real.pi / 8)| ≤ 1 / 2 ^ 55 := by
  obtain ⟨hlo, hhi⟩ := sqrt_two_bounds
  rw [value_of_fval (n := 0x187DE2A6AEA963) (k := 54) (by decide) (by decide +kernel), Int.cast_ofNat, Real.sin_pi_div_eight]
  exact abs_sub_sqrt_div_two_le (by norm_num) (by linarith) (by linarith)

theorem sqrt_two_div_two_accurate : |(fval 0x3FE6A09E667F3BCD : ℝ) / 2 ^ 1074 - √2 / 2| ≤ 1 / 2 ^ 54 := by
  rw [value_of_fval (n := 0x16A09E667F3BCD) (k := 53) (by decide) (by decide +kernel), Int.cast_ofNat]
  exact abs_sub_sqrt_div_two_le (by norm_num) (by norm_num) (by norm_num)

/-- The error of a negated entry against a negated value. -/
theorem abs_value_fneg_sub_neg (x : F64) (r : ℝ) :
    |(fval (fneg x) : ℝ) / 2 ^ 1074 - -r| = |(fval x : ℝ) / 2 ^ 1074 - r| := by
  rw [fval_fneg, Int.cast_neg, neg_div, neg_sub_neg, abs_sub_comm]

/-- Settles O42: the real cosine and sine at the four angles are 0, ±1 or half a square root, and the imaginary parts are
negated patterns. -/
theorem defaultRomIsAccurateAtEighths : Obligations.DefaultRomIsAccurateAtEighths := by
  have h64 : 2 * Real.pi * 64 / 1024 = Real.pi / 8 := by ring
  have h128 : 2 * Real.pi * 128 / 1024 = Real.pi / 4 := by ring
  have h256 : 2 * Real.pi * 256 / 1024 = Real.pi / 2 := by ring
  have hneg : (0xBFE6A09E667F3BCD : F64) = fneg 0x3FE6A09E667F3BCD := rfl
  rw [Obligations.DefaultRomIsAccurateAtEighths, romEntry_at_zero, romEntry_at_pi_div_eight, romEntry_at_pi_div_four,
    romEntry_at_pi_div_two, mul_zero, zero_div, h64, h128, h256]
  refine ⟨⟨?_, ?_⟩, ⟨cos_pi_div_eight_accurate, ?_⟩, ⟨?_, ?_⟩, ⟨?_, ?_⟩⟩
  · rw [value_fOne, Real.cos_zero]
  · rw [value_posZero, Real.sin_zero, neg_zero]
  · rw [abs_value_fneg_sub_neg]
    exact sin_pi_div_eight_accurate
  · rw [Real.cos_pi_div_four]
    exact sqrt_two_div_two_accurate
  · rw [Real.sin_pi_div_four, hneg, abs_value_fneg_sub_neg]
    exact sqrt_two_div_two_accurate
  · rw [value_posZero, Real.cos_pi_div_two]
  · rw [value_fNegOne, Real.sin_pi_div_two]

end Sys2Proof.Machine
end

section
/-! PROOF. The unit twiddles of the butterfly (43_butterfly.md R76): each part of a product with one of them is a part of the
sample, or its negation, plus a zero, and adding a zero to a finite word keeps its value. -/

namespace Sys2Proof.Machine

@[simp] theorem isFinite_fneg (x : F64) : isFinite (fneg x) = isFinite x := by
  rw [Bool.eq_iff_iff, isFinite_iff, isFinite_iff, absPat_fneg]

theorem fOne_fmul {x : F64} (hx : isFinite x = true) (p : Site) : fmul p fOne x = x := by
  rw [fmul_comm, fmul_one ((isFinite_iff_not x).mp hx).1]

theorem fNegOne_fmul {x : F64} (hx : isFinite x = true) (p : Site) : fmul p fNegOne x = fneg x := by
  rw [fmul_comm, fmul_negOne ((isFinite_iff_not x).mp hx).1]

theorem isZero_fmul_posZero {x : F64} (hx : isFinite x = true) (p : Site) : isZero (fmul p posZero x) = true := by
  rw [fmul_zero (.inl (by decide)) (by decide) hx, isZero_iff, absPat_withSign _ (by decide)]

/-- A sum with a zero is exact; only the sign of a sum of two zeros can differ from that of the operand (R43). -/
theorem fadd_zero_right_exact {x z : F64} (hx : isFinite x = true) (hz : isZero z = true) (p : Site) :
    isFinite (fadd p x z) = true ∧ fval (fadd p x z) = fval x := by
  by_cases hxz : isZero x = true
  · rw [fadd_zeros hxz hz]
    split
    · exact ⟨hx, rfl⟩
    · have hval : fval posZero = 0 := (isZero_iff_fval posZero).mp (by decide)
      exact ⟨by decide, hval.trans ((isZero_iff_fval x).mp hxz).symm⟩
  · rw [fadd_zero_right ((isFinite_iff_not x).mp hx).1 (by simpa using hxz) hz]
    exact ⟨hx, rfl⟩

section
variable {o : Sample} (hre : isFinite o.re = true) (him : isFinite o.im = true) (p : Site)
include hre him

theorem cmul_one_eq_add_zeros : ∃ z z', isZero z = true ∧ isZero z' = true ∧
    cmul p ⟨fOne, posZero⟩ o = ⟨fadd (0 :: p) o.re z, fadd (3 :: p) o.im z'⟩ := by
  refine ⟨fneg (fmul (2 :: p) posZero o.im), fmul (5 :: p) posZero o.re, ?_, isZero_fmul_posZero hre _, ?_⟩
  · rw [isZero_fneg, isZero_fmul_posZero him]
  · rw [cmul, fsub_eq, fOne_fmul hre, fOne_fmul him]

theorem cmul_negI_eq_add_zeros : ∃ z z', isZero z = true ∧ isZero z' = true ∧
    cmul p ⟨posZero, fNegOne⟩ o = ⟨fadd (0 :: p) o.im z, fadd (3 :: p) (fneg o.re) z'⟩ := by
  refine ⟨fmul (1 :: p) posZero o.re, fmul (4 :: p) posZero o.im, isZero_fmul_posZero hre _, isZero_fmul_posZero him _, ?_⟩
  rw [cmul, fsub_eq, fNegOne_fmul hre, fNegOne_fmul him, fneg_fneg, fadd_comm (0 :: p), fadd_comm (3 :: p)]

end

/-- Settles O40: each part of the product is a part of the sample, negated for the real part under `-i`, plus a zero. -/
theorem unitTwiddlesAreExact : Obligations.UnitTwiddlesAreExact := by
  intro p o hre him
  obtain ⟨z, z', hz, hz', hone⟩ := cmul_one_eq_add_zeros hre him p
  obtain ⟨u, u', hu, hu', hnegI⟩ := cmul_negI_eq_add_zeros hre him p
  obtain ⟨hf1, hv1⟩ := fadd_zero_right_exact hre hz (0 :: p)
  obtain ⟨hf2, hv2⟩ := fadd_zero_right_exact him hz' (3 :: p)
  obtain ⟨hf3, hv3⟩ := fadd_zero_right_exact him hu (0 :: p)
  obtain ⟨hf4, hv4⟩ := fadd_zero_right_exact ((isFinite_fneg o.re).trans hre) hu' (3 :: p)
  rw [hone, hnegI, ← fval_fneg o.re]
  exact ⟨⟨hf1, hf2, hv1, hv2⟩, hf3, hf4, hv3, hv4⟩

end Sys2Proof.Machine
end

section
/-! PROOF. The transforms (44_fft_ifft.md): the recursion of `Forward` and `Inverse` sample by sample (R79, R82), and the
commands `FFT` and `IFFT`, which share their tests and complete with what their transform makes of the source (R80, R83). -/

namespace Sys2Proof.Machine

/-! ## The Forward Transform (R78, R79) -/

theorem forward_eq_forwardAt {q : List Sample} {n : Nat} (h : q.length = 2 ^ n) (c : Config) (p : Site) :
    forward c p q = forwardAt c n p q := by
  rw [forward, h, log2_two_pow]

/-- The base case of R79. -/
@[simp] theorem forward_singleton (c : Config) (p : Site) (z : Sample) : forward c p [z] = [z] :=
  forward_eq_forwardAt (n := 0) rfl c p

/-- The recursive case of R79. -/
theorem forward_eq_combine {q : List Sample} {n : Nat} (h : q.length = 2 ^ (n + 1)) (c : Config) (p : Site) :
    forward c p q
      = combine c (2 :: p) (2 ^ (n + 1)) (forward c (0 :: p) (evens q)) (forward c (1 :: p) (odds q)) := by
  obtain ⟨hev, hod⟩ := evens_odds_length (2 ^ n) q (by rw [h, Nat.pow_succ'])
  rw [forward_eq_forwardAt h, forwardAt, forward_eq_forwardAt hev, forward_eq_forwardAt hod]

/-- Where the two parts of butterfly `k` stand in a combine step of two halves of length `m`. -/
theorem combine_getElem? {E O : List Sample} {m k : Nat} {e o : Sample} (hE : E.length = m) (hO : O.length = m)
    (he : E[k]? = some e) (ho : O[k]? = some o) (c : Config) (p : Site) (N : Nat) :
    (combine c p N E O)[k]? = some (butterfly (k :: p) e o (twiddle c N k)).1
      ∧ (combine c p N E O)[k + m]? = some (butterfly (k :: p) e o (twiddle c N k)).2 := by
  have hlen : (butterflies c p N 0 E O).length = m := by rw [butterflies_length, hE, hO, Nat.min_self]
  have hk : k < m := hE ▸ (List.getElem?_eq_some_iff.mp he).1
  have hb : (butterflies c p N 0 E O)[k]? = some (butterfly (k :: p) e o (twiddle c N k)) := by
    rw [butterflies_getElem?, he, ho, Nat.zero_add]; rfl
  constructor
  · rw [combine, List.getElem?_append_left (by rwa [List.length_map, hlen]), List.getElem?_map, hb]; rfl
  · rw [combine, List.getElem?_append_right (by rw [List.length_map, hlen]; omega), List.length_map, hlen,
      Nat.add_sub_cancel, List.getElem?_map, hb]; rfl

/-- Settles O36: the halves are transformed at sites of their own, and both have an element at every `k` below their common
length. -/
theorem forwardIsTheRecursion : Obligations.ForwardIsTheRecursion := by
  refine ⟨forward_length, forward_singleton, fun q m => ⟨evens_getElem? q m, odds_getElem? q m⟩, fun c p q n h => ?_⟩
  obtain ⟨hev, hod⟩ := evens_odds_length (2 ^ n) q (by rw [h, Nat.pow_succ'])
  have hE : (forward c (0 :: p) (evens q)).length = 2 ^ n :=
    (forward_length _ _ _ ((isPow2_iff _).mpr ⟨n, hev⟩)).trans hev
  have hO : (forward c (1 :: p) (odds q)).length = 2 ^ n :=
    (forward_length _ _ _ ((isPow2_iff _).mpr ⟨n, hod⟩)).trans hod
  refine ⟨0 :: p, 1 :: p, fun k hk => ?_⟩
  have he := List.getElem?_eq_getElem (hk.trans_eq hE.symm)
  have ho := List.getElem?_eq_getElem (hk.trans_eq hO.symm)
  exact ⟨_, _, k :: 2 :: p, he, ho, forward_eq_combine h c p ▸ combine_getElem? hE hO he ho c (2 :: p) _⟩

/-! ## The Inverse Transform (R81, R82) -/

theorem scaleSeq_getElem? (p : Site) (n i j : Nat) (q : List Sample) :
    (scaleSeq p n i q)[j]? = q[j]?.map fun z => cscale ((i + j) :: p) z n := by
  induction q generalizing i j with
  | nil => rfl
  | cons z q ih => cases j with
    | zero => rfl
    | succ j => simp only [scaleSeq, List.getElem?_cons_succ, ih, Nat.add_assoc, Nat.add_comm 1]

/-- Sample `i` of `Inverse`: the conjugate of sample `i` of the transform of the conjugated input, scaled by `1/N`. -/
theorem inverse_getElem? {q : List Sample} {n : Nat} (h : q.length = 2 ^ n) (c : Config) (p : Site) (i : Nat) :
    (inverse c p q)[i]?
      = (forward c (0 :: p) (q.map cconj))[i]?.map fun y => cscale (i :: 1 :: p) (cconj y) n := by
  rw [inverse, h, log2_two_pow, scaleSeq_getElem?, List.getElem?_map, Option.map_map, Nat.zero_add]; rfl

/-- Scaling by `2^0` is the product with 1.0. -/
theorem cscale_zero {z : Sample} (hre : isNaN z.re = false) (him : isNaN z.im = false) (p : Site) : cscale p z 0 = z := by
  rw [cscale, show twoPowNeg 0 = fOne by decide, fmul_one hre, fmul_one him]

/-- Settles O43: one sample is conjugated twice and scaled by `2^0`. -/
theorem inverseOfOneSampleIsItself : Obligations.InverseOfOneSampleIsItself := by
  refine ⟨fun c p z hre him => ?_, inverse_length⟩
  have hscaled : inverse c p [z] = [cscale (0 :: 1 :: p) (cconj (cconj z)) 0] := by
    rw [inverse, List.map_singleton, forward_singleton]; rfl
  rw [hscaled, cconj_cconj, cscale_zero hre him]

/-! ## `FFT` and `IFFT` (R80, R83) -/

theorem transformChecked_empty {q : List Sample} (h : q.length = 0) : transformChecked q = .error .unsupported := by
  rw [transformChecked, if_pos h]

theorem transformChecked_not_pow2 {q : List Sample} (h0 : q.length ≠ 0) (h : ¬ ∃ n, q.length = 2 ^ n) :
    transformChecked q = .error .invalidInput := by
  rw [transformChecked, if_neg h0, if_neg (by rwa [isPow2_iff])]

theorem transformChecked_pow2 {q : List Sample} {n : Nat} (h : q.length = 2 ^ n) : transformChecked q = .ok q := by
  have h0 : q.length ≠ 0 := h ▸ (Nat.two_pow_pos n).ne'
  rw [transformChecked, if_neg h0, if_pos ((isPow2_iff _).mpr ⟨n, h⟩)]

section
variable {i : Instr} {a : BufIx} {s : State} {f : List Sample → List Sample}
  (hi : cmdResult i s = (transformChecked (s.operand a)).map fun q => (f q, false))
include hi

/-- The tests of a command that is a transform `f` of its source, in their order (R126). -/
theorem transform_tests :
    (s.lenOf a = 0 → Fails i s .unsupported)
      ∧ (s.lenOf a ≠ 0 → (¬ ∃ n, s.lenOf a = 2 ^ n) → Fails i s .invalidInput) := by
  rw [← s.operand_length a]
  constructor
  · intro h
    exact fails_of_result (by rw [hi, transformChecked_empty h]; rfl)
  · intro h0 h
    exact fails_of_result (by rw [hi, transformChecked_not_pow2 h0 h]; rfl)

/-- A transform that keeps a power-of-two length has a result that fits wherever its source fits. -/
theorem transform_succeeds (hs : s.Inv) (hf : ∀ q, isPow2 q.length = true → (f q).length = q.length) {n : Nat}
    (h : s.lenOf a = 2 ^ n) : Succeeds i s (f (s.operand a)) false := by
  have hq : (s.operand a).length = 2 ^ n := (s.operand_length a).trans h
  have hlen : (f (s.operand a)).length = s.lenOf a :=
    (hf _ ((isPow2_iff _).mpr ⟨n, hq⟩)).trans (s.operand_length a)
  exact succeeds_of_result (by rw [hi, transformChecked_pow2 hq]; rfl) hs.cfg_wf (hlen ▸ hs.len_le a)

end

/-- Settles O45: the common tests, then `Forward` of the operand, which the source may hold. -/
theorem fftTransformsItsSource : Obligations.FftTransformsItsSource := by
  intro d a s hs
  have hi : cmdResult (.fft d a) s
      = (transformChecked (s.operand a)).map fun q => (forward s.cfg [2, s.stamp] q, false) := rfl
  obtain ⟨hempty, hinvalid⟩ := transform_tests hi
  exact ⟨hempty, hinvalid, fun n h =>
    ⟨s.operand a, _, s.mayHold_operand a, transform_succeeds hi hs (forward_length _ _) h⟩⟩

/-- Settles O46: the common tests, then `Inverse` of the operand, read sample by sample. -/
theorem ifftInvertsItsSource : Obligations.IfftInvertsItsSource := by
  intro d a s hs
  have hi : cmdResult (.ifft d a) s
      = (transformChecked (s.operand a)).map fun q => (inverse s.cfg [2, s.stamp] q, false) := rfl
  obtain ⟨hempty, hinvalid⟩ := transform_tests hi
  refine ⟨hempty, hinvalid, fun n h => ?_⟩
  have hq : (s.operand a).length = 2 ^ n := (s.operand_length a).trans h
  refine ⟨s.operand a, inverse s.cfg [2, s.stamp] (s.operand a), [0, 2, s.stamp], s.mayHold_operand a,
    inverse_length _ _ _ ((isPow2_iff _).mpr ⟨n, hq⟩), fun i y hy => ⟨[i, 1, 2, s.stamp], ?_⟩,
    transform_succeeds hi hs (inverse_length _ _) h⟩
  rw [inverse_getElem? hq, hy]; rfl

end Sys2Proof.Machine
end

section
/-! PROOF. The bit-reversal network and the iterative datapath (45_bit_reverse_datapath.md): reversal exchanges the lowest and
the highest bit of an index (R87, R88), and the stages after the network compute the recursion (R91). Up to its last stage
the datapath works on the two halves of the array apart, which hold the even-indexed and the odd-indexed input; its last
stage is the combine step. -/

namespace Sys2Proof.Machine

/-! ## Bit reversal of an index (R87, R88) -/

theorem bitRev_lt (n i : Nat) : bitRev n i < 2 ^ n := by
  induction n generalizing i with
  | zero => exact Nat.one_pos
  | succ n ih =>
    have hlow := ih (i / 2)
    rcases Nat.mod_two_eq_zero_or_one i with h | h <;> simp only [bitRev, h, Nat.pow_succ] <;> omega

/-- The recursion on the highest bit: bit `n` of the index goes to bit 0. -/
theorem bitRev_succ_high {n b i : Nat} (hb : b < 2) (hi : i < 2 ^ n) :
    bitRev (n + 1) (b * 2 ^ n + i) = 2 * bitRev n i + b := by
  induction n generalizing i with
  | zero =>
    obtain rfl : i = 0 := by omega
    simpa [bitRev] using hb
  | succ n ih =>
    have hlow : (b * 2 ^ (n + 1) + i) % 2 = i % 2 := by rw [Nat.pow_succ, ← Nat.mul_assoc]; omega
    have hhigh : (b * 2 ^ (n + 1) + i) / 2 = b * 2 ^ n + i / 2 := by rw [Nat.pow_succ, ← Nat.mul_assoc]; omega
    rw [bitRev, hlow, hhigh, ih (by omega), bitRev]
    ring

theorem bitRev_even (n m : Nat) : bitRev (n + 1) (2 * m) = bitRev n m := by simp [bitRev]

theorem bitRev_odd (n m : Nat) : bitRev (n + 1) (2 * m + 1) = 2 ^ n + bitRev n m := by
  rw [bitRev, Nat.mul_add_mod, Nat.mul_add_div (by decide), Nat.one_mod, Nat.one_mul]; rfl

theorem bitRev_bitRev {n i : Nat} (hi : i < 2 ^ n) : bitRev n (bitRev n i) = i := by
  induction n generalizing i with
  | zero => exact (Nat.lt_one_iff.mp hi).symm
  | succ n ih =>
    rw [bitRev.eq_def (n + 1) i, bitRev_succ_high (Nat.mod_lt _ (by decide)) (bitRev_lt n _), ih (by omega), Nat.div_add_mod]

/-- Bit 0 goes to bit `n` of `BitRev(n + 1, i)`; the others are those of `BitRev(n, i / 2)`. -/
theorem bitRev_testBit {n b : Nat} (i : Nat) (hb : b < n) : (bitRev n i).testBit (n - 1 - b) = i.testBit b := by
  induction n generalizing i b with
  | zero => exact absurd hb (Nat.not_lt_zero b)
  | succ n ih =>
    rw [bitRev, Nat.mul_comm, Nat.testBit_two_pow_mul_add _ (bitRev_lt n _)]
    cases b with
    | zero => simp
    | succ b =>
      have hb : b < n := Nat.lt_of_succ_lt_succ hb
      rw [if_pos (by omega), show n + 1 - 1 - (b + 1) = n - 1 - b by omega, ih _ hb, Nat.testBit_succ]

theorem bitRev_zero_right (n : Nat) : bitRev n 0 = 0 := by
  induction n with
  | zero => rfl
  | succ n ih => rw [← Nat.mul_zero 2, bitRev_even, ih]

theorem bitRev_two_pow_sub_one (n : Nat) : bitRev n (2 ^ n - 1) = 2 ^ n - 1 := by
  induction n with
  | zero => rfl
  | succ n ih =>
    have hpos := Nat.two_pow_pos n
    rw [show 2 ^ (n + 1) - 1 = 2 * (2 ^ n - 1) + 1 by omega, bitRev_odd, ih]
    omega

/-- Settles O38: the bits by induction on the lowest one, the inverse by the recursion on the highest one. -/
theorem bitReversalIsAnInvolution : Obligations.BitReversalIsAnInvolution :=
  ⟨fun _ i _ _ hb => bitRev_testBit i hb, fun n i hi => ⟨bitRev_lt n i, bitRev_bitRev hi⟩,
    fun n => ⟨bitRev_zero_right n, bitRev_two_pow_sub_one n⟩, fun n m _ => ⟨bitRev_even n m, bitRev_odd n m⟩⟩

/-! ## The network (R89): its two halves are the networks of the even-indexed and the odd-indexed input -/

theorem bitReversePermute_length (n : Nat) (q : List Sample) : (bitReversePermute n q).length = 2 ^ n := by
  rw [bitReversePermute, List.length_map, List.length_range]

theorem bitReversePermute_zero {q : List Sample} (h : q.length = 1) : bitReversePermute 0 q = q := by
  obtain ⟨z, rfl⟩ := List.length_eq_one_iff.mp h
  rfl

theorem bitReversePermute_succ (n : Nat) (q : List Sample) :
    bitReversePermute (n + 1) q = bitReversePermute n (evens q) ++ bitReversePermute n (odds q) := by
  rw [bitReversePermute, Nat.pow_succ, Nat.mul_two, List.range_add, List.map_append, List.map_map]
  congr 1 <;> refine List.map_congr_left fun i hi => ?_
  · have hrev := bitRev_succ_high (b := 0) (by decide) (List.mem_range.mp hi)
    rw [Nat.zero_mul, Nat.zero_add] at hrev
    rw [hrev, Nat.add_zero, List.getD_eq_getElem?_getD, List.getD_eq_getElem?_getD, evens_getElem?]
  · have hrev := bitRev_succ_high (b := 1) (by decide) (List.mem_range.mp hi)
    rw [Nat.one_mul] at hrev
    rw [Function.comp_apply, hrev, List.getD_eq_getElem?_getD, List.getD_eq_getElem?_getD, odds_getElem?]

/-! ## Stages (R89) -/

theorem SameSeq.getD {q r : List Sample} (h : SameSeq q r) (i : Nat) : SameSample (q.getD i czero) (r.getD i czero) := by
  induction h generalizing i with
  | nil => exact .refl _
  | cons hz _ ih => cases i with
    | zero => exact hz
    | succ i => exact ih i

theorem SameSeq.of_getD {q r : List Sample} (hlen : q.length = r.length)
    (h : ∀ i, i < q.length → SameSample (q.getD i czero) (r.getD i czero)) : SameSeq q r :=
  List.forall₂_iff_get.mpr ⟨hlen, fun i hq hr => by simpa [hq, hr] using h i hq⟩

theorem stage_length (c : Config) (p : Site) (s : Nat) (a : List Sample) : (stage c p s a).length = a.length := by
  rw [stage, List.length_map, List.length_range]

theorem stage_getElem? {a : List Sample} {i : Nat} (hi : i < a.length) (c : Config) (p : Site) (s : Nat) :
    (stage c p s a)[i]? = some (stageAt c p s a i) := by
  rw [stage, List.getElem?_map, List.getElem?_range hi, Option.map_some]

theorem stage_getD {a : List Sample} {i : Nat} (hi : i < a.length) (c : Config) (p : Site) (s : Nat) :
    (stage c p s a).getD i czero = stageAt c p s a i := by
  rw [List.getD_eq_getElem?_getD, stage_getElem? hi, Option.getD_some]

theorem SameSample.butterfly {e e' o o' : Sample} (he : SameSample e e') (ho : SameSample o o') (w : Sample)
    (p p' : Site) :
    SameSample (butterfly p e o w).1 (butterfly p' e' o' w).1 ∧ SameSample (butterfly p e o w).2 (butterfly p' e' o' w).2 :=
  have ht := (SameSample.refl w).cmul ho (0 :: p) (0 :: p')
  ⟨he.cadd ht _ _, he.csub ht _ _⟩

/-- What a stage leaves at an index depends only on the place of the index in its block and on what the block holds. -/
theorem sameSample_stageAt {a a' : List Sample} {s i i' : Nat} (hmod : i % 2 ^ (s + 1) = i' % 2 ^ (s + 1))
    (h : ∀ r, r < 2 ^ (s + 1) → SameSample (a.getD (i - i % 2 ^ (s + 1) + r) czero)
      (a'.getD (i' - i' % 2 ^ (s + 1) + r) czero)) (c : Config) (p p' : Site) :
    SameSample (stageAt c p (s + 1) a i) (stageAt c p' (s + 1) a' i') := by
  have hhalf : 2 ^ (s + 1) / 2 = 2 ^ s := by omega
  have hk : i % 2 ^ s = i' % 2 ^ s := by
    have hdvd := Nat.pow_dvd_pow 2 (Nat.le_succ s)
    rw [← Nat.mod_mod_of_dvd i hdvd, hmod, Nat.mod_mod_of_dvd i' hdvd]
  have hlt : i' % 2 ^ s < 2 ^ s := Nat.mod_lt _ (Nat.two_pow_pos s)
  have hlo := h (i' % 2 ^ s) (by omega)
  have hhi := h (i' % 2 ^ s + 2 ^ s) (by omega)
  rw [← Nat.add_assoc, ← Nat.add_assoc] at hhi
  simp only [stageAt, hhalf, hk, hmod] at hlo hhi ⊢
  split
  · exact (hlo.butterfly hhi _ _ _).1
  · exact (hlo.butterfly hhi _ _ _).2

theorem SameSeq.stage {a a' : List Sample} (h : SameSeq a a') (c : Config) (p p' : Site) (s : Nat) :
    SameSeq (stage c p (s + 1) a) (stage c p' (s + 1) a') := by
  refine .of_getD (by rw [stage_length, stage_length, h.length_eq]) fun i hi => ?_
  have hi : i < a.length := hi.trans_eq (stage_length ..)
  rw [stage_getD hi, stage_getD (h.length_eq ▸ hi)]
  exact sameSample_stageAt rfl (fun r _ => h.getD _) c p p'

/-- The block of an index below a multiple of the block length lies below it as well. -/
theorem block_add_lt {m N i r : Nat} (hm : m ∣ N) (hi : i < N) (hr : r < m) : i - i % m + r < N := by
  obtain ⟨d, rfl⟩ := hm
  have hblock : m * (i / m + 1) ≤ m * d := Nat.mul_le_mul_left m (Nat.div_lt_of_lt_mul hi)
  have hdiv := Nat.div_add_mod i m
  rw [Nat.mul_add] at hblock
  omega

/-- A stage whose blocks do not cross the border between two parts of the array works on each part apart. -/
theorem sameSeq_stage_append {a : List Sample} {s : Nat} (ha : 2 ^ (s + 1) ∣ a.length) (b : List Sample) (c : Config)
    (p : Site) : SameSeq (stage c p (s + 1) (a ++ b)) (stage c p (s + 1) a ++ stage c p (s + 1) b) := by
  refine .of_getD (by simp only [stage_length, List.length_append]) fun i hi => ?_
  have hi : i < (a ++ b).length := hi.trans_eq (stage_length ..)
  rw [stage_getD hi]
  rcases Nat.lt_or_ge i a.length with hlt | hge
  · rw [List.getD_append _ _ _ _ ((stage_length ..).symm ▸ hlt), stage_getD hlt]
    refine sameSample_stageAt rfl (fun r hr => ?_) c p p
    rw [List.getD_append _ _ _ _ (block_add_lt ha hlt hr)]
    exact .refl _
  · obtain ⟨j, rfl⟩ := Nat.exists_eq_add_of_le hge
    have hj : j < b.length := by rw [List.length_append] at hi; omega
    have hmod : (a.length + j) % 2 ^ (s + 1) = j % 2 ^ (s + 1) := by
      rw [Nat.add_mod, Nat.mod_eq_zero_of_dvd ha, Nat.zero_add, Nat.mod_mod]
    rw [List.getD_append_right _ _ _ _ (by rw [stage_length]; omega), stage_length, Nat.add_sub_cancel_left, stage_getD hj]
    refine sameSample_stageAt hmod (fun r _ => ?_) c p p
    have hjm := Nat.mod_le j (2 ^ (s + 1))
    have hblock : a.length + j - j % 2 ^ (s + 1) + r - a.length = j - j % 2 ^ (s + 1) + r := by omega
    rw [hmod, List.getD_append_right _ _ _ _ (by omega), hblock]
    exact .refl _

theorem stages_length (c : Config) (p : Site) (s : Nat) (a : List Sample) : (stages c p s a).length = a.length := by
  induction s with
  | zero => rfl
  | succ s ih => rw [stages, stage_length, ih]

theorem sameSeq_stages_append {a : List Sample} {n s : Nat} (ha : a.length = 2 ^ n) (hs : s ≤ n) (b : List Sample)
    (c : Config) (p : Site) : SameSeq (stages c p s (a ++ b)) (stages c p s a ++ stages c p s b) := by
  induction s with
  | zero => exact .refl _
  | succ s ih =>
    have hdvd : 2 ^ (s + 1) ∣ (stages c p s a).length := by rw [stages_length, ha]; exact Nat.pow_dvd_pow 2 hs
    exact ((ih (by omega)).stage c p p s).trans (sameSeq_stage_append hdvd _ c p)

/-- In a stage whose one block is the whole array, butterfly `k` takes sample `k` of each half. -/
theorem stageAt_append {a b : List Sample} {n k : Nat} {e o : Sample} (ha : a.length = 2 ^ n) (he : a[k]? = some e)
    (ho : b[k]? = some o) (c : Config) (p : Site) :
    stageAt c p (n + 1) (a ++ b) k = (butterfly (k :: 0 :: (n + 1) :: p) e o (twiddle c (2 ^ (n + 1)) k)).1
      ∧ stageAt c p (n + 1) (a ++ b) (k + 2 ^ n)
        = (butterfly (k :: 0 :: (n + 1) :: p) e o (twiddle c (2 ^ (n + 1)) k)).2 := by
  have hk : k < 2 ^ n := ha ▸ (List.getElem?_eq_some_iff.mp he).1
  have hhalf : 2 ^ (n + 1) / 2 = 2 ^ n := by omega
  have hlo : (a ++ b).getD k czero = e := by rw [List.getD_eq_getElem?_getD, List.getElem?_append_left (by omega), he]; rfl
  have hhi : (a ++ b).getD (k + 2 ^ n) czero = o := by
    rw [List.getD_eq_getElem?_getD, List.getElem?_append_right (by omega), ha, Nat.add_sub_cancel, ho]; rfl
  have hmod : k % 2 ^ (n + 1) = k := Nat.mod_eq_of_lt (by omega)
  have hmod' : (k + 2 ^ n) % 2 ^ (n + 1) = k + 2 ^ n := Nat.mod_eq_of_lt (by omega)
  have hkh : k % 2 ^ n = k := Nat.mod_eq_of_lt hk
  constructor
  · simp only [stageAt, hhalf, hmod, hkh, Nat.sub_self, Nat.zero_add, hlo, hhi, if_pos hk]
  · simp only [stageAt, hhalf, hmod', hkh, Nat.add_mod_right, Nat.sub_self, Nat.zero_add, hlo, hhi,
      if_neg (Nat.not_lt.mpr (Nat.le_add_left _ k))]

/-- That stage is the combine step of the two halves, at the sites of block 0. -/
theorem stage_eq_combine {a b : List Sample} {n : Nat} (ha : a.length = 2 ^ n) (hb : b.length = 2 ^ n) (c : Config)
    (p : Site) : stage c p (n + 1) (a ++ b) = combine c (0 :: (n + 1) :: p) (2 ^ (n + 1)) a b := by
  have hlen : (a ++ b).length = 2 ^ n + 2 ^ n := by rw [List.length_append, ha, hb]
  refine List.ext_getElem?' fun i hi => ?_
  rw [stage_length, combine_length, ha, hb, Nat.min_self, hlen] at hi
  have he {k : Nat} (hk : k < 2 ^ n) := List.getElem?_eq_getElem (hk.trans_eq ha.symm)
  have ho {k : Nat} (hk : k < 2 ^ n) := List.getElem?_eq_getElem (hk.trans_eq hb.symm)
  rw [stage_getElem? (by omega)]
  rcases Nat.lt_or_ge i (2 ^ n) with hk | hge
  · rw [(stageAt_append ha (he hk) (ho hk) c p).1, (combine_getElem? ha hb (he hk) (ho hk) ..).1]
  · obtain ⟨k, rfl⟩ := Nat.exists_eq_add_of_le' hge
    have hk : k < 2 ^ n := by omega
    rw [(stageAt_append ha (he hk) (ho hk) c p).2, (combine_getElem? ha hb (he hk) (ho hk) ..).2]

/-! ## The datapath and the recursion (R91) -/

theorem sameSeq_stages_bitReversePermute {q : List Sample} {n : Nat} (h : q.length = 2 ^ n) (c : Config) (p p' : Site) :
    SameSeq (stages c p n (bitReversePermute n q)) (forwardAt c n p' q) := by
  induction n generalizing p' q with
  | zero => rw [bitReversePermute_zero h]; exact .refl q
  | succ n ih =>
    obtain ⟨hev, hod⟩ := evens_odds_length (2 ^ n) q (by rw [h, Nat.pow_succ'])
    have hlen (r : List Sample) : (stages c p n (bitReversePermute n r)).length = 2 ^ n := by
      rw [stages_length, bitReversePermute_length]
    have hhalves := sameSeq_stages_append (bitReversePermute_length n (evens q)) le_rfl (bitReversePermute n (odds q)) c p
    have hlast := hhalves.stage c p p n
    rw [stage_eq_combine (hlen _) (hlen _)] at hlast
    rw [bitReversePermute_succ]
    exact hlast.trans ((ih hev (0 :: p')).combine (ih hod (1 :: p')) c _ (2 :: p') _)

/-- Settles O37: by induction on the number of stages, the halves of the array hold the transforms of the even-indexed and
the odd-indexed input before the last stage, which combines them. -/
theorem iterativeDatapathEqualsRecursion : Obligations.IterativeDatapathEqualsRecursion := by
  intro c p p' q hpow
  obtain ⟨n, hn⟩ := (isPow2_iff _).mp hpow
  rw [forwardIter, hn, log2_two_pow, forward_eq_forwardAt hn]
  exact sameSeq_stages_bitReversePermute hn c p p'

end Sys2Proof.Machine
end

section
/-! PROOF. Elementwise spectral algebra (46_spectral_algebra.md): the commands `MUL` (R95 to R97) and `CONJ` (R98, R99), which
share the test that a source is not empty and complete with what they make of the captured operands, lane by lane. -/

namespace Sys2Proof.Machine

/-! ## The test of a source (R97, R98) -/

theorem nonEmptyChecked_empty {q : List Sample} (h : q.length = 0) : nonEmptyChecked q = .error .unsupported := by
  rw [nonEmptyChecked, if_pos h]

theorem nonEmptyChecked_nonempty {q : List Sample} (h : q.length ≠ 0) : nonEmptyChecked q = .ok q := by
  rw [nonEmptyChecked, if_neg h]

/-! ## The product (R94 to R96) -/

/-- `MultiplySeq` over the shorter length: no lane below it is cut off by taking a prefix of the operands. -/
theorem isProduct_multiplySeq (p : Site) (A B : List Sample) :
    IsProduct A B (multiplySeq p A B (min A.length B.length)) where
  length_eq := multiplySeq_length p A B _ (Nat.min_le_left _ _) (Nat.min_le_right _ _)
  lane i x y hx hy := by
    obtain ⟨hiA, -⟩ := List.getElem?_eq_some_iff.mp hx
    obtain ⟨hiB, -⟩ := List.getElem?_eq_some_iff.mp hy
    have hi : i < min A.length B.length := Nat.lt_min.mpr ⟨hiA, hiB⟩
    refine ⟨(0 + i) :: p, ?_⟩
    rw [multiplySeq, mulLanes_getElem?, List.getElem?_take_of_lt hi, List.getElem?_take_of_lt hi, hx, hy]
    rfl

/-- `Multiply` answers the product wherever the lengths are equal or the policy is lenient. -/
theorem multiply_defined {A B : List Sample} {l : Bool} (h : A.length = B.length ∨ l = true) (p : Site) :
    multiply p A B l = .ok (multiplySeq p A B (min A.length B.length), decide (A.length ≠ B.length)) := by
  by_cases he : A.length = B.length
  · rw [multiply_equal l he, he, Nat.min_self, decide_eq_false (not_not_intro rfl)]
  · rw [h.resolve_left he, multiply_lenient he, decide_eq_true he]

/-! ## `MUL` (R97) -/

/-- Either source may be the empty one: the kind raised is the same, whatever the policy. -/
theorem mulResult_empty {s : State} {a b : BufIx} (h : s.lenOf a = 0 ∨ s.lenOf b = 0) (l : Bool) :
    mulResult s a b l = .error .unsupported := by
  rw [← s.operand_length a, ← s.operand_length b] at h
  by_cases ha : (s.operand a).length = 0
  · rw [mulResult, nonEmptyChecked_empty ha]; rfl
  · rw [mulResult, nonEmptyChecked_nonempty ha, nonEmptyChecked_empty (h.resolve_left ha)]; rfl

theorem mulResult_nonempty {s : State} {a b : BufIx} (ha : s.lenOf a ≠ 0) (hb : s.lenOf b ≠ 0) (l : Bool) :
    mulResult s a b l = multiply [2, s.stamp] (s.operand a) (s.operand b) l := by
  rw [← s.operand_length] at ha hb
  rw [mulResult, nonEmptyChecked_nonempty ha, nonEmptyChecked_nonempty hb]; rfl

/-- Settles O47: `nonEmptyChecked` on the two sources, then `Multiply` of the captured operands, which the sources may hold;
the shorter of two lengths fits the destination. -/
theorem mulMultipliesPointwise : Obligations.MulMultipliesPointwise := by
  intro d a b l s hs
  have hlenA := s.operand_length a
  have hlenB := s.operand_length b
  refine ⟨fun h => fails_of_result (mulResult_empty h l), fun ha hb hne hl => ?_, fun ha hb h => ?_⟩
  · have hres : mulResult s a b l = .error .lengthMismatch := by
      rw [mulResult_nonempty ha hb, hl, multiply_strict (by rwa [hlenA, hlenB])]
    exact fails_of_result hres
  · have hres := (mulResult_nonempty ha hb l).trans (multiply_defined (by rwa [hlenA, hlenB]) _)
    have hprod := isProduct_multiplySeq [2, s.stamp] (s.operand a) (s.operand b)
    refine ⟨_, _, _, s.mayHold_operand a, s.mayHold_operand b, fun hab => by rw [hab], hprod, ?_⟩
    rw [← hlenA, ← hlenB]
    refine succeeds_of_result hres hs.cfg_wf ?_
    rw [hprod.length_eq, hlenA, hlenB]
    exact (Nat.min_le_left _ _).trans (hs.len_le a)

/-- `+0` times `+0` is `+0`, and so are the difference and the sum of two of them (R43 to R45). -/
theorem cmul_czero (p : Site) : cmul p czero czero = czero := by
  have hmul (p' : Site) : fmul p' posZero posZero = posZero := by
    rw [fmul_zero (.inl (by decide)) (by decide) (by decide)]; decide
  have hre : fsub (0 :: p) posZero posZero = posZero := fsub_self (by decide) _
  have him : fadd (3 :: p) posZero posZero = posZero := by rw [fadd_zeros (by decide) (by decide), if_pos rfl]
  rw [show czero = ⟨posZero, posZero⟩ from rfl]
  simp only [cmul, hmul, hre, him]

theorem IsProduct.eq_replicate_czero {n : Nat} {C : List Sample}
    (h : IsProduct (List.replicate n czero) (List.replicate n czero) C) : C = List.replicate n czero := by
  have hlen : C.length = n := by simpa using h.length_eq
  refine List.ext_getElem? fun i => ?_
  by_cases hi : i < n
  · have hz : (List.replicate n czero)[i]? = some czero := by rw [List.getElem?_replicate, if_pos hi]
    obtain ⟨p, hp⟩ := h.lane i czero czero hz hz
    rw [hp, hz, cmul_czero]
  · rw [List.getElem?_eq_none (by omega), List.getElem?_eq_none (by simpa using hi)]

/-- Settles O56: the successful case of `mulMultipliesPointwise`, where both operands can only be the sequence held. -/
theorem mulOfZerosIsZeros : Obligations.MulOfZerosIsZeros := by
  intro d a b l s n hs hn ha hb
  have hlenA : s.lenOf a = n := ha.len_eq.trans List.length_replicate
  have hlenB : s.lenOf b = n := hb.len_eq.trans List.length_replicate
  have heq : s.lenOf a = s.lenOf b := hlenA.trans hlenB.symm
  obtain ⟨-, -, hmul⟩ := mulMultipliesPointwise d a b l s hs
  obtain ⟨A, B, C, hA, hB, -, hprod, hsucc⟩ := hmul (hlenA ▸ hn) (hlenB ▸ hn) (.inl heq)
  rw [ha.eq_of_mayHold hA, hb.eq_of_mayHold hB] at hprod
  rwa [hprod.eq_replicate_czero, decide_eq_false (not_not_intro heq)] at hsucc

/-! ## `CONJ` (R98) -/

theorem conjugate_length (q : List Sample) : (conjugate q).length = q.length := List.length_map ..

theorem conjugate_conjugate (q : List Sample) : conjugate (conjugate q) = q := by
  rw [conjugate, conjugate, List.map_map]
  exact (List.map_congr_left fun z _ => cconj_cconj z).trans (List.map_id q)

theorem conj_fails {s : State} {a : BufIx} (h : s.lenOf a = 0) (d : BufIx) : Fails (.conj d a) s .unsupported :=
  fails_of_result (by rw [cmdResult, nonEmptyChecked_empty ((s.operand_length a).trans h)]; rfl)

theorem conj_succeeds {s : State} (hs : s.Inv) {a : BufIx} (h : s.lenOf a ≠ 0) (d : BufIx) :
    Succeeds (.conj d a) s (conjugate (s.operand a)) false := by
  have hlen := s.operand_length a
  refine succeeds_of_result ?_ hs.cfg_wf ?_
  · rw [cmdResult, nonEmptyChecked_nonempty (by rwa [hlen])]; rfl
  · rw [conjugate_length, hlen]; exact hs.len_le a

/-- Settles O48: the test of the source, then `cconj` of each sample of the captured operand, which the source may hold. -/
theorem conjConjugatesItsSource : Obligations.ConjConjugatesItsSource := fun d a s hs =>
  ⟨fun h => conj_fails h d, fun h => ⟨s.operand a, s.mayHold_operand a, conj_succeeds hs h d⟩⟩

/-! ## Conjugating twice, and the product with a conjugate (R99) -/

/-- `CONJ` of a buffer that holds a sequence leaves its conjugate in the destination. -/
theorem State.Holds.exec_conj {s : State} {a : BufIx} {q : List Sample} (h : s.Holds a q) (hs : s.Inv) (hq : q ≠ [])
    (d : BufIx) : ∃ t, exec (.conj d a) s = .next t ∧ t.Holds d (conjugate q) := by
  have h0 : s.lenOf a ≠ 0 := h.len_eq ▸ List.length_eq_zero_iff.not.mpr hq
  obtain ⟨t, ht, hd, -⟩ := conj_succeeds hs h0 d
  exact ⟨t, ht, h.seqAt_eq _ ▸ hd⟩

theorem sameWord_fmul_fneg_right (p p' : Site) (x y : F64) : SameWord (fmul p x (fneg y)) (fneg (fmul p' x y)) := by
  rw [fmul_comm p, fmul_comm p']
  exact sameWord_fmul_fneg p p' y x

/-- Settles O55: the second `CONJ` undoes the first sample by sample; in the product with a conjugate the sign of `B.im`
comes out of each product it enters. -/
theorem doubleConjugateCopies : Obligations.DoubleConjugateCopies := by
  refine ⟨fun d a s q hs h hq => ?_, fun p p1 p2 p3 A B => ⟨?_, ?_⟩⟩
  · obtain ⟨t, ht, hd⟩ := h.exec_conj hs hq d
    have hne : conjugate q ≠ [] := List.map_eq_nil_iff.not.mpr hq
    obtain ⟨u, hu, hdd⟩ := hd.exec_conj (hs.exec ht) hne d
    exact ⟨t, u, ht, hu, conjugate_conjugate q ▸ hdd⟩
  · have him : SameWord (fneg (fmul (2 :: p) A.im (fneg B.im))) (fmul p3 A.im B.im) := by
      simpa using (sameWord_fmul_fneg_right (2 :: p) p3 A.im B.im).fneg
    rw [cmul, fsub_eq]
    exact (sameWord_fmul_site _ _ _ _).fadd him _ _
  · have hsum := (sameWord_fmul_fneg_right (4 :: p) p3 A.re B.im).fadd (sameWord_fmul_site (5 :: p) p2 A.im B.re) (3 :: p) p1
    rw [fsub_eq]
    exact hsum.trans (sameWord_fadd_comm _ _ _ _)

end Sys2Proof.Machine
end

section
/-! PROOF. Completions and the host (60_exceptions.md, 70_reset_and_hazards.md): the engine's turn runs the command in `CMD`
or fails an illegal value, `irq` follows from `IE` and `DONE`, and a busy block refuses every write. -/

namespace Sys2Proof.Machine

/-! ## The engine's turn (R130, R139) -/

theorem step_eq_engineStep {s : State} (hb : s.busy = true) (hturn : s.delay = 0 ∨ s.pending = []) :
    step s = engineStep s := step_engine ((engineTurn_iff s).mpr ⟨hb, hturn⟩)

theorem step_eq_exec {s : State} {i : Instr} (hb : s.busy = true) (hturn : s.delay = 0 ∨ s.pending = [])
    (hi : decode s.cmd = .command i) : step s = exec i s :=
  (step_eq_engineStep hb hturn).trans (engineStep_command hi)

/-- An opcode-table word is read by the decoder of the zero-extended value (30_encoding.md R108). -/
theorem decode_of_decodeTableWord {nbits w : Nat} {i : Instr} (h : decodeTableWord nbits w = some i) :
    decode (BitVec.ofNat 64 (w % 2 ^ nbits)) = .command i := by
  unfold decodeTableWord at h
  split at h
  · split at h
    · next hd => cases h; exact hd
    · cases h
  · cases h

/-- Settles O5: the engine's turn, with `CMD` decoding to a command; `withFetchWord` leaves the block busy with `delay` 0. -/
theorem stepRunsTheCommandInFlight : Obligations.StepRunsTheCommandInFlight :=
  ⟨fun _ _ => step_eq_exec, fun _ _ _ _ h => step_eq_exec rfl (.inl rfl) (decode_of_decodeTableWord h)⟩

/-! ## Illegal values (R124) -/

/-- Each case of the decoder that answers a command has found the fields zero that R124 names. -/
theorem not_illegalValue_of_decode {v : Word} {i : Instr} (hd : decode v = .command i) : ¬ IllegalValue v := by
  have h := hasOpcode_of_decode hd
  have hu := h.upper
  have hz := h.zero
  rw [h.decode_eq, decodeOpcode] at hd
  unfold IllegalValue
  generalize field v 28 4 = opc at hd ⊢
  split at hd
  case h_1 =>
    obtain ⟨hs, -⟩ := decodePad_eq_command_iff.mp hd
    omega
  case h_2 | h_3 | h_5 =>
    obtain ⟨hs, hm, -⟩ := decodeOneSource_eq_command_iff.mp hd
    rw [fieldImm] at hm
    omega
  case h_4 | h_6 | h_7 | h_8 =>
    obtain ⟨hm, -⟩ := decodeTwoSource_eq_command_iff.mp hd
    rw [fieldImm] at hm
    omega
  case h_9 => cases hd

theorem decode_illegal_of_illegalValue {v : Word} (h : IllegalValue v) : ∃ why, decode v = .illegal why := by
  cases hd : decode v with
  | command i => exact absurd h (not_illegalValue_of_decode hd)
  | illegal why => exact ⟨why, rfl⟩

/-- Settles O6: the engine's turn, with `CMD` decoding to no command, is the failed completion. -/
theorem illegalCommandFailsAtCompletion : Obligations.IllegalCommandFailsAtCompletion := by
  intro s hb hturn hv
  obtain ⟨why, hd⟩ := decode_illegal_of_illegalValue hv
  exact ⟨s.failWith .illegalCommand, (step_eq_engineStep hb hturn).trans (engineStep_illegal hd),
    s.failWith_completed _, s.failWith_noBufferChanged _⟩

/-! ## The interrupt (R127) -/

theorem irq_eq_true_iff (s : State) : s.irq = true ↔ s.ie = true ∧ s.done = true := Bool.and_eq_true_iff

theorem irq_of_not_done {s : State} (h : s.done = false) : s.irq = false := by rw [State.irq, h, Bool.and_false]

theorem irq_of_not_ie {s : State} (h : s.ie = false) : s.irq = false := by rw [State.irq, h, Bool.false_and]

/-- A completion leaves `DONE = 1` and `IE` as it was. -/
theorem irq_of_exec {i : Instr} {s t : State} (h : exec i s = .next t) : t.irq = s.ie := by
  rcases exec_cases i s with ⟨q, tr, -, hx⟩ | ⟨k, -, hx⟩ <;> rw [hx] at h <;> cases h
  · exact Bool.and_true s.ie
  · exact Bool.and_true s.ie

/-- Settles O22: each event that clears `irq` clears `DONE` or `IE`. -/
theorem interruptIsALevel : Obligations.InterruptIsALevel := by
  refine ⟨irq_eq_true_iff, fun _ _ _ => irq_of_exec, fun s v hb => ⟨fun hv => ?_, ?_, fun hv => ?_⟩, fun s => ?_⟩
  · rw [memWrite_status_idle hb v (target_status _)]
    exact irq_of_not_done (by rw [hv, Bool.not_true, Bool.and_false])
  · rw [memWrite_cmd_idle hb v (target_cmd _)]
    exact irq_of_not_done (s.issue_done v)
  · rw [memWrite_ctrl_idle hb v (target_ctrl _)]
    exact irq_of_not_ie hv
  · exact irq_of_not_ie s.doReset_ie

/-! ## The busy lock-out (R144) -/

theorem hostWrite_busy {s : State} (hb : s.busy = true) (addr : HostAddr) (v : Word) :
    hostWrite s addr v = s.answered (.write .err) := by rw [hostWrite, memWrite_busy hb]

/-- Settles O21: of what a host event can do, reads answer the port only, a write is refused, and reset is excluded. -/
theorem busyLocksTheHostOut : Obligations.BusyLocksTheHostOut := by
  intro s t op rest hb hd hp hreset hs
  rw [step_eq_hostStep (.inr hd) hp] at hs
  rcases hostStep_next_cases hs with ⟨addr, -, rfl⟩ | ⟨-, -, rfl⟩ | ⟨addr, v, -, rfl⟩ | ⟨hr, -⟩
  · exact ⟨rfl, rfl, rfl, rfl, rfl, rfl, rfl, rfl, rfl⟩
  · exact ⟨rfl, rfl, rfl, rfl, rfl, rfl, rfl, rfl, rfl⟩
  · rw [hostWrite_busy (s.taken_busy rest ▸ hb)]
    exact ⟨rfl, rfl, rfl, rfl, rfl, rfl, rfl, rfl, rfl⟩
  · exact absurd hr hreset

end Sys2Proof.Machine
end

section
/-! PROOF. The compositions `CONV`, `CONVIR` and `XCORR` (47_convolution_correlation.md): one form of their results, its tests
in order (R126) and its success (R101, R103, R105). -/

namespace Sys2Proof.Machine

/-! ## One form of the three results -/

/-- The form of the three compositions: both operands padded with the target `m`, their spectra multiplied, the second one
after `g`, and transformed back (R100). -/
def composeResult (s : State) (a b : BufIx) (m : Nat) (g : List Sample → List Sample) (l : Bool) : CmdResult := do
  let PX ← padChecked s.cfg (s.operand a) m
  let PY ← padChecked s.cfg (s.operand b) m
  multiplyInverse s.cfg s.stamp (forward s.cfg [2, s.stamp] PX) (g (forward s.cfg [3, s.stamp] PY)) l

theorem cmdResult_conv (d a b : BufIx) (l : Bool) (s : State) :
    cmdResult (.conv d a b l) s = composeResult s a b 0 id l := rfl

theorem cmdResult_convir (d a b : BufIx) (l : Bool) (s : State) :
    cmdResult (.convir d a b l) s = composeResult s a b (max (s.lenOf a) (s.lenOf b)) id l := rfl

theorem cmdResult_xcorr (d a b : BufIx) (l : Bool) (s : State) :
    cmdResult (.xcorr d a b l) s = composeResult s a b 0 conjugate l := rfl

theorem multiplyInverse_defined {FX FY : List Sample} {l : Bool} (h : FX.length = FY.length ∨ l = true) (c : Config)
    (n : Nat) : multiplyInverse c n FX FY l
      = .ok (inverse c [5, n] (multiplySeq [4, n] FX FY (min FX.length FY.length)), decide (FX.length ≠ FY.length)) := by
  rw [multiplyInverse, multiply_defined h]; rfl

/-- Where it is defined, the tail of a composition is the inverse of a product. -/
theorem multiplyInverse_product {FX FY : List Sample} {l : Bool} (h : FX.length = FY.length ∨ l = true) (c : Config)
    (n : Nat) : ∃ C, IsProduct FX FY C
      ∧ multiplyInverse c n FX FY l = .ok (inverse c [5, n] C, decide (FX.length ≠ FY.length)) :=
  ⟨_, isProduct_multiplySeq [4, n] FX FY, multiplyInverse_defined h c n⟩

theorem multiplyInverse_strict {FX FY : List Sample} (h : FX.length ≠ FY.length) (c : Config) (n : Nat) :
    multiplyInverse c n FX FY false = .error .lengthMismatch := by
  rw [multiplyInverse, multiply_strict h]; rfl

section Form

variable {s : State} {a b : BufIx} {m : Nat} {g : List Sample → List Sample} {l : Bool} {k : FailKind}
  {PX PY : List Sample}

theorem composeResult_of_first_error (hX : padChecked s.cfg (s.operand a) m = .error k) :
    composeResult s a b m g l = .error k := by
  rw [composeResult, hX]; rfl

theorem composeResult_of_second_error (hX : padChecked s.cfg (s.operand a) m = .ok PX)
    (hY : padChecked s.cfg (s.operand b) m = .error k) : composeResult s a b m g l = .error k := by
  rw [composeResult, hX, hY]; rfl

theorem composeResult_of_padded (hX : padChecked s.cfg (s.operand a) m = .ok PX)
    (hY : padChecked s.cfg (s.operand b) m = .ok PY) :
    composeResult s a b m g l
      = multiplyInverse s.cfg s.stamp (forward s.cfg [2, s.stamp] PX) (g (forward s.cfg [3, s.stamp] PY)) l := by
  rw [composeResult, hX, hY]; rfl

/-- `PadChecked` of a captured operand, by the length of its buffer. -/
theorem padChecked_operand (h0 : s.lenOf a ≠ 0) (hP : padLen (s.lenOf a) m ≤ s.cfg.nmax) :
    padChecked s.cfg (s.operand a) m = .ok (padSeq (s.operand a) m) :=
  padChecked_fits (by rwa [s.operand_length]) (by rwa [s.operand_length])

theorem isPow2_padSeq_length (q : List Sample) (m : Nat) : isPow2 (padSeq q m).length = true :=
  padSeq_length q m ▸ (isPow2_iff _).mpr (padLen_isPow2 _ _)

/-- The spectrum of a padded sequence has the padded length. -/
theorem forward_padSeq_length (c : Config) (p : Site) (q : List Sample) (m : Nat) :
    (forward c p (padSeq q m)).length = padLen q.length m := by
  rw [forward_length _ _ _ (isPow2_padSeq_length q m), padSeq_length]

theorem isPow2_forward_padSeq_length (c : Config) (p : Site) (q : List Sample) (m : Nat) :
    isPow2 (forward c p (padSeq q m)).length = true := by
  rw [forward_padSeq_length, ← padSeq_length]; exact isPow2_padSeq_length q m

theorem forward_padSeq_operand_length (c : Config) (p : Site) (s : State) (a : BufIx) (m : Nat) :
    (forward c p (padSeq (s.operand a) m)).length = padLen (s.lenOf a) m := by
  rw [forward_padSeq_length, s.operand_length]

/-! ## The tests and the success of a command of this form -/

section Command

variable {i : Instr} (hi : cmdResult i s = composeResult s a b m g l)
include hi

/-- The tests on the operands: emptiness and capacity of the first, then of the second (R126). -/
theorem compose_operand_tests :
    (s.lenOf a = 0 → Fails i s .unsupported)
      ∧ (s.lenOf a ≠ 0 → s.cfg.nmax < padLen (s.lenOf a) m → Fails i s .capacity)
      ∧ (s.lenOf a ≠ 0 → padLen (s.lenOf a) m ≤ s.cfg.nmax → s.lenOf b = 0 → Fails i s .unsupported)
      ∧ (s.lenOf a ≠ 0 → padLen (s.lenOf a) m ≤ s.cfg.nmax → s.lenOf b ≠ 0 → s.cfg.nmax < padLen (s.lenOf b) m →
          Fails i s .capacity) := by
  have hlenA := s.operand_length a
  have hlenB := s.operand_length b
  refine ⟨fun ha => ?_, fun ha hP => ?_, fun ha hP hb => ?_, fun ha hP hb hQ => ?_⟩ <;>
    refine fails_of_result (hi.trans ?_)
  · exact composeResult_of_first_error (padChecked_empty m (hlenA.trans ha))
  · exact composeResult_of_first_error (padChecked_capacity (by rwa [hlenA]) (by rwa [hlenA]))
  · exact composeResult_of_second_error (padChecked_operand ha hP) (padChecked_empty m (hlenB.trans hb))
  · exact composeResult_of_second_error (padChecked_operand ha hP)
      (padChecked_capacity (by rwa [hlenB]) (by rwa [hlenB]))

variable (hg : ∀ q, (g q).length = q.length)
include hg

/-- The last test: the padded lengths against each other under the strict policy. -/
theorem compose_length_test (ha : s.lenOf a ≠ 0) (hP : padLen (s.lenOf a) m ≤ s.cfg.nmax) (hb : s.lenOf b ≠ 0)
    (hQ : padLen (s.lenOf b) m ≤ s.cfg.nmax) (hne : padLen (s.lenOf a) m ≠ padLen (s.lenOf b) m) (hl : l = false) :
    Fails i s .lengthMismatch := by
  refine fails_of_result (hi.trans ?_)
  rw [composeResult_of_padded (padChecked_operand ha hP) (padChecked_operand hb hQ), hl]
  exact multiplyInverse_strict (by rwa [hg, forward_padSeq_operand_length, forward_padSeq_operand_length]) _ _

/-- Where no test fails: the inverse of the product of the two spectra. -/
theorem compose_succeeds (hs : s.Inv) (ha : s.lenOf a ≠ 0) (hP : padLen (s.lenOf a) m ≤ s.cfg.nmax) (hb : s.lenOf b ≠ 0)
    (hQ : padLen (s.lenOf b) m ≤ s.cfg.nmax) (h : padLen (s.lenOf a) m = padLen (s.lenOf b) m ∨ l = true) :
    ∃ X Y C p1 p2 p3, s.MayHold a X ∧ s.MayHold b Y ∧ (a = b → X = Y)
      ∧ IsProduct (forward s.cfg p1 (padSeq X m)) (g (forward s.cfg p2 (padSeq Y m))) C
      ∧ Succeeds i s (inverse s.cfg p3 C) (decide (padLen (s.lenOf a) m ≠ padLen (s.lenOf b) m)) := by
  have hFX := forward_padSeq_operand_length s.cfg [2, s.stamp] s a m
  have hFY := (hg _).trans (forward_padSeq_operand_length s.cfg [3, s.stamp] s b m)
  have hpadded := hi.trans (composeResult_of_padded (padChecked_operand ha hP) (padChecked_operand hb hQ))
  rw [← hFX, ← hFY] at h ⊢
  obtain ⟨C, hprod, hres⟩ := multiplyInverse_product h s.cfg s.stamp
  have hok := hpadded.trans hres
  exact ⟨_, _, C, _, _, _, s.mayHold_operand a, s.mayHold_operand b, fun hab => by rw [hab], hprod,
    succeeds_of_result hok hs.cfg_wf (cmdResult_ok_length hs.len_le hok).2⟩

end Command

/-! ## Targets and policy -/

/-- What a target asks of an operand is decided by its maximum with the operand's length (41_pad.md R57). -/
theorem padChecked_congr_target {c : Config} {q : List Sample} {m' : Nat} (h : max q.length m = max q.length m') :
    padChecked c q m = padChecked c q m' := by
  rw [padChecked, padChecked, padSeq, padSeq, padLen, padLen, h]

theorem composeResult_congr_target {m' : Nat} (ha : max (s.lenOf a) m = max (s.lenOf a) m')
    (hb : max (s.lenOf b) m = max (s.lenOf b) m') : composeResult s a b m g l = composeResult s a b m' g l := by
  rw [← s.operand_length a] at ha
  rw [← s.operand_length b] at hb
  rw [composeResult, composeResult, padChecked_congr_target ha, padChecked_congr_target hb]

/-- Where the padded lengths are equal there is nothing for the policy to decide. -/
theorem composeResult_congr_policy (hg : ∀ q, (g q).length = q.length)
    (h : padLen (s.lenOf a) m = padLen (s.lenOf b) m) (l' : Bool) :
    composeResult s a b m g l = composeResult s a b m g l' := by
  cases hX : padChecked s.cfg (s.operand a) m with
  | error k => rw [composeResult_of_first_error hX, composeResult_of_first_error hX]
  | ok PX =>
    cases hY : padChecked s.cfg (s.operand b) m with
    | error k => rw [composeResult_of_second_error hX hY, composeResult_of_second_error hX hY]
    | ok PY =>
      have hlen : (forward s.cfg [2, s.stamp] PX).length = (g (forward s.cfg [3, s.stamp] PY)).length := by
        rwa [hg, (padChecked_ok_spectrum hX _).1, (padChecked_ok_spectrum hY _).1, s.operand_length, s.operand_length]
      rw [composeResult_of_padded hX hY, composeResult_of_padded hX hY, multiplyInverse_defined (.inl hlen),
        multiplyInverse_defined (.inl hlen)]

end Form

/-- Both operands of `CONVIR` are padded to one length (41_pad.md R59). -/
theorem padLen_shared (x y : Nat) :
    padLen x (max x y) = nextPow2 (2 * max x y) ∧ padLen y (max x y) = nextPow2 (2 * max x y) :=
  ⟨padLen_of_le (Nat.le_max_left x y), padLen_of_le (Nat.le_max_right x y)⟩

/-! ## The obligations on the three commands -/

/-- Settles O49: the composition with target 0 and the second spectrum as it is. -/
theorem convIsPadForwardMultiplyInverse : Obligations.ConvIsPadForwardMultiplyInverse := by
  intro d a b l s hs
  have hi := cmdResult_conv d a b l s
  obtain ⟨hA0, hAcap, hB0, hBcap⟩ := compose_operand_tests hi
  exact ⟨hA0, hAcap, hB0, hBcap, compose_length_test hi fun _ => rfl, compose_succeeds hi (fun _ => rfl) hs⟩

/-- Settles O51: the composition with target 0 and the conjugate of the second spectrum. -/
theorem xcorrConjugatesTheSecondSpectrum : Obligations.XcorrConjugatesTheSecondSpectrum := by
  intro d a b l s hs
  have hi := cmdResult_xcorr d a b l s
  obtain ⟨hA0, hAcap, hB0, hBcap⟩ := compose_operand_tests hi
  exact ⟨hA0, hAcap, hB0, hBcap, compose_length_test hi conjugate_length, compose_succeeds hi conjugate_length hs⟩

/-- Settles O50: with the shared target both operands have one padded length, so the fourth test of the form is the second
one again, its last test and the policy never matter, and for equal lengths the target asks no more than they do. -/
theorem convirPadsToASharedLength : Obligations.ConvirPadsToASharedLength := by
  intro d a b l s hs
  have hi := cmdResult_convir d a b l s
  obtain ⟨hA0, hAcap, hB0, -⟩ := compose_operand_tests hi
  obtain ⟨hPa, hPb⟩ := padLen_shared (s.lenOf a) (s.lenOf b)
  have hsame := hPa.trans hPb.symm
  rw [hPa] at hAcap hB0
  refine ⟨hA0, hAcap, hB0, fun ha hP hb => ?_, ?_, fun h => ?_⟩
  · obtain ⟨X, Y, C, p1, p2, p3, hX, hY, hXY, hprod, hsucc⟩ :=
      compose_succeeds hi (fun _ => rfl) hs ha (hPa ▸ hP) hb (hPb ▸ hP) (.inl hsame)
    rw [decide_eq_false (not_not_intro hsame)] at hsucc
    refine ⟨X, Y, C, p1, p2, p3, hX, hY, hXY, hprod, ?_, hsucc⟩
    rw [hprod.length_eq, id, forward_padSeq_length, forward_padSeq_length, hX.len_eq, hY.len_eq, hPa, hPb, Nat.min_self]
  · rw [exec_eq_complete, exec_eq_complete, cmdResult_convir, cmdResult_convir,
      composeResult_congr_policy (g := id) (fun _ => rfl) hsame false]
    rfl
  · rw [exec_eq_complete, exec_eq_complete, hi, cmdResult_conv, ← h, Nat.max_self,
      composeResult_congr_target (m' := 0) (by simp) (by simp [h])]
    rfl

end Sys2Proof.Machine
end

section
/-! PROOF. How a command ends (60_exceptions.md R120): the kinds that each of its tests can raise are those that the table
lists for it, and a result fits its buffer. -/

namespace Sys2Proof.Machine

theorem except_map_error {ε α β : Type} {x : Except ε α} {f : α → β} {e : ε} (h : x.map f = .error e) : x = .error e := by
  cases x with
  | error e' => cases h; rfl
  | ok a => cases h

theorem padChecked_error {c : Config} {q : List Sample} {m : Nat} {k : FailKind} (h : padChecked c q m = .error k) :
    k ∈ [.unsupported, .capacity] := by
  unfold padChecked at h
  split at h
  · cases h; decide
  split at h
  · cases h; decide
  · cases h

theorem transformChecked_error {q : List Sample} {k : FailKind} (h : transformChecked q = .error k) :
    k ∈ [.unsupported, .invalidInput] := by
  unfold transformChecked at h
  split at h
  · cases h; decide
  split at h
  · cases h
  · cases h; decide

theorem nonEmptyChecked_error {q : List Sample} {k : FailKind} (h : nonEmptyChecked q = .error k) : k = .unsupported := by
  unfold nonEmptyChecked at h
  split at h
  · cases h; rfl
  · cases h

theorem multiply_error {p : Site} {A B : List Sample} {l : Bool} {k : FailKind} (h : multiply p A B l = .error k) :
    k = .lengthMismatch := by
  unfold multiply at h
  split at h
  · cases h
  split at h
  · cases h; rfl
  · cases h

/-- The kinds of `MUL`: either source is empty, or the product is refused. -/
theorem mulResult_error {s : State} {a b : BufIx} {l : Bool} {k : FailKind} (h : mulResult s a b l = .error k) :
    k ∈ [.unsupported, .lengthMismatch] := by
  by_cases h0 : s.lenOf a = 0 ∨ s.lenOf b = 0
  · rw [mulResult_empty h0] at h; cases h; decide
  · obtain ⟨ha, hb⟩ := not_or.mp h0
    rw [mulResult_nonempty ha hb] at h
    rw [multiply_error h]; decide

/-- The kinds of a composition: those of `PadChecked`, and `LengthMismatch` only where the padded lengths differ. -/
theorem composeResult_error {s : State} {a b : BufIx} {m : Nat} {g : List Sample → List Sample} {l : Bool} {k : FailKind}
    (hg : ∀ q, (g q).length = q.length) (h : composeResult s a b m g l = .error k) :
    k ∈ [.unsupported, .capacity, .lengthMismatch]
      ∧ (padLen (s.lenOf a) m = padLen (s.lenOf b) m → k ∈ [.unsupported, .capacity]) := by
  cases hX : padChecked s.cfg (s.operand a) m with
  | error k' =>
    rw [composeResult_of_first_error hX] at h; cases h
    exact ⟨List.mem_append_left [FailKind.lengthMismatch] (padChecked_error hX), fun _ => padChecked_error hX⟩
  | ok PX =>
    cases hY : padChecked s.cfg (s.operand b) m with
    | error k' =>
      rw [composeResult_of_second_error hX hY] at h; cases h
      exact ⟨List.mem_append_left [FailKind.lengthMismatch] (padChecked_error hY), fun _ => padChecked_error hY⟩
    | ok PY =>
      rw [composeResult_of_padded hX hY] at h
      by_cases hlen : (forward s.cfg [2, s.stamp] PX).length = (g (forward s.cfg [3, s.stamp] PY)).length
      · rw [multiplyInverse_defined (.inl hlen)] at h; cases h
      · cases l with
        | true => rw [multiplyInverse_defined (.inr rfl)] at h; cases h
        | false =>
          rw [multiplyInverse_strict hlen] at h; cases h
          rw [hg, (padChecked_ok_spectrum hX _).1, (padChecked_ok_spectrum hY _).1] at hlen
          exact ⟨by decide, fun he => absurd (by simpa using he) hlen⟩

/-- A command raises no kind but those the table lists for it. -/
theorem cmdResult_error {i : Instr} {s : State} {k : FailKind} (h : cmdResult i s = .error k) : k ∈ mayRaise i := by
  cases i with
  | pad d a m => exact padChecked_error (except_map_error h)
  | fft d a => exact transformChecked_error (except_map_error h)
  | ifft d a => exact transformChecked_error (except_map_error h)
  | mul d a b l => exact mulResult_error h
  | conj d a => exact List.mem_singleton.mpr (nonEmptyChecked_error (except_map_error h))
  | conv d a b l =>
    obtain ⟨hk, -⟩ := composeResult_error (g := id) (fun _ => rfl) h
    exact hk
  | convir d a b l =>
    obtain ⟨hPa, hPb⟩ := padLen_shared (s.lenOf a) (s.lenOf b)
    obtain ⟨-, hk⟩ := composeResult_error (g := id) (fun _ => rfl) h
    exact hk (hPa.trans hPb.symm)
  | xcorr d a b l =>
    obtain ⟨hk, -⟩ := composeResult_error conjugate_length h
    exact hk

/-- Settles O12: a result fits its buffer, and a raised kind is one of the command's. -/
theorem commandEndsInSuccessOrAKindItCanRaise : Obligations.CommandEndsInSuccessOrAKindItCanRaise := by
  refine ⟨fun i s hs => ?_, rfl, rfl, rfl, rfl, rfl⟩
  cases hr : cmdResult i s with
  | ok r =>
    obtain ⟨hpos, hfits⟩ := cmdResult_ok_length hs.len_le hr
    exact .inl ⟨r.1, r.2, hpos, hfits, succeeds_of_result hr hs.cfg_wf hfits⟩
  | error k => exact .inr ⟨k, cmdResult_error hr, fails_of_result hr⟩

end Sys2Proof.Machine
end

section
/-! PROOF. The compositions and their chains (47_convolution_correlation.md R107): a chain keeps its two work buffers at the
sequences of the composition, up to the pattern of NaNs, and stops where the composition fails. -/

namespace Sys2Proof.Machine

/-! ## Work buffers -/

/-- Buffer `b` holds the sequence `q` up to the pattern of NaNs. -/
def State.HoldsSame (s : State) (b : BufIx) (q : List Sample) : Prop := ∃ r, s.Holds b r ∧ SameSeq q r

theorem State.HoldsSame.operand {s : State} {b : BufIx} {q : List Sample} (h : s.HoldsSame b q) :
    SameSeq q (s.operand b) := by
  obtain ⟨r, hr, hq⟩ := h
  rwa [← hr.seqAt_eq [0, s.stamp]] at hq

theorem State.Holds.same {s : State} {b : BufIx} {q : List Sample} (h : s.Holds b q) : s.HoldsSame b q := ⟨q, h, .refl q⟩

/-- The state of a chain that goes on: a block of configuration `c` whose last command succeeded, the work buffers `w` and
`v` holding `A` and `B` up to the pattern of NaNs. -/
structure State.Working (s : State) (c : Config) (w v : BufIx) (A B : List Sample) : Prop where
  inv : s.Inv
  cfg_eq : s.cfg = c
  err_eq : s.err = 0
  first : s.HoldsSame w A
  second : s.HoldsSame v B

theorem State.Working.swap {s : State} {c : Config} {w v : BufIx} {A B : List Sample} (h : s.Working c w v A B) :
    s.Working c v w B A := ⟨h.inv, h.cfg_eq, h.err_eq, h.second, h.first⟩

section Rules

variable {s : State} {c : Config} {w v x : BufIx} {A B q r : List Sample} {i : Instr} {t : Bool}

/-- A success leaves its result in the destination and every other buffer as it was (60_exceptions.md R131). -/
theorem working_of_result (hs : s.Inv) (hB : s.HoldsSame x B) (hx : x ≠ i.dest)
    (hr : cmdResult i s = .ok (r, t)) (hq : SameSeq q r) :
    ∃ s', exec i s = .next s' ∧ s'.Working s.cfg i.dest x q B := by
  have hn := nmax_le hs.cfg_wf
  have hfits := (cmdResult_ok_length hs.len_le hr).2
  have hx' : exec i s = .next (s.succeed i.dest r t) := by rw [exec_eq_complete, hr]; rfl
  obtain ⟨B', hB', hBB⟩ := hB
  have hlenB : B'.length ≤ s.cfg.nmax := hB'.len_eq ▸ hs.len_le x
  exact ⟨_, hx', hs.exec hx', rfl, rfl, ⟨r, hs.holds_succeed hr, hq⟩,
    ⟨B', hB'.of_onlyBufferChanged (s.succeed_onlyBufferChanged _ _ _ (by omega)) hx (by omega), hBB⟩⟩

/-- A success in place replaces the sequence of the first work buffer. -/
theorem State.Working.inPlace (h : s.Working c w v A B) (hwv : w ≠ v) (hd : i.dest = w)
    (hr : cmdResult i s = .ok (r, t)) (hq : SameSeq q r) : ∃ s', exec i s = .next s' ∧ s'.Working c w v q B := by
  obtain ⟨hs, rfl, -, -, hvB⟩ := h
  subst hd
  exact working_of_result hs hvB hwv.symm hr hq

/-- A work buffer whose length is a power of two passes the tests of a transform. -/
theorem State.Working.transformChecked_first (h : s.Working c w v A B) (hA : isPow2 A.length = true) :
    transformChecked (s.operand w) = .ok (s.operand w) := by
  obtain ⟨n, hn⟩ := (isPow2_iff _).mp hA
  exact transformChecked_pow2 (h.first.operand.length_eq.symm.trans hn)

theorem State.Working.fft_first (h : s.Working c w v A B) (hwv : w ≠ v) (hA : isPow2 A.length = true) (p : Site) :
    ∃ s', exec (.fft w w) s = .next s' ∧ s'.Working c w v (forward c p A) B := by
  have hr : cmdResult (.fft w w) s = .ok (forward c [2, s.stamp] (s.operand w), false) := by
    rw [cmdResult, h.transformChecked_first hA, h.cfg_eq]; rfl
  exact h.inPlace hwv rfl hr (h.first.operand.forward c _ _)

theorem State.Working.ifft_first (h : s.Working c w v A B) (hwv : w ≠ v) (hA : isPow2 A.length = true) (p : Site) :
    ∃ s', exec (.ifft w w) s = .next s' ∧ s'.Working c w v (inverse c p A) B := by
  have hr : cmdResult (.ifft w w) s = .ok (inverse c [2, s.stamp] (s.operand w), false) := by
    rw [cmdResult, h.transformChecked_first hA, h.cfg_eq]; rfl
  exact h.inPlace hwv rfl hr (h.first.operand.inverse c _ _)

theorem State.Working.conj_first (h : s.Working c w v A B) (hwv : w ≠ v) (hA : A.length ≠ 0) :
    ∃ s', exec (.conj w w) s = .next s' ∧ s'.Working c w v (conjugate A) B := by
  have hr : cmdResult (.conj w w) s = .ok (conjugate (s.operand w), false) := by
    rw [cmdResult, nonEmptyChecked_nonempty (h.first.operand.length_eq ▸ hA)]; rfl
  exact h.inPlace hwv rfl hr h.first.operand.map_cconj

/-- `MUL` of two work buffers that are not empty gives `Multiply` of their sequences, up to the pattern of NaNs. -/
theorem State.Working.sameResult_mul (h : s.Working c w v A B) (hA : A.length ≠ 0) (hB : B.length ≠ 0) (p : Site)
    (l : Bool) : SameResult (multiply p A B l) (cmdResult (.mul w w v l) s) := by
  have hopA := h.first.operand
  have hopB := h.second.operand
  rw [hopA.length_eq, s.operand_length] at hA
  rw [hopB.length_eq, s.operand_length] at hB
  rw [cmdResult, mulResult_nonempty hA hB]
  exact hopA.sameResult_multiply hopB _ _ l

end Rules

/-! ## What a chain reports -/

/-- The state after a composition or its chain, by the result of the composition: success with the result in buffer `b` up
to the pattern of NaNs, or the code of the kind raised. -/
inductive State.Reports (t : State) (b : BufIx) : CmdResult → Prop where
  | ok {q : List Sample} {tr : Bool} (err_eq : t.err = 0) (holds : t.HoldsSame b q) : State.Reports t b (.ok (q, tr))
  | error {k : FailKind} (err_eq : t.err = k.code) : State.Reports t b (.error k)

/-- The completion of a command reports its result in the destination. -/
theorem exec_reports {s : State} (hs : s.Inv) (i : Instr) :
    ∃ t, exec i s = .next t ∧ t.Reports i.dest (cmdResult i s) := by
  rw [exec_eq_complete]
  cases hr : cmdResult i s with
  | ok r => exact ⟨_, rfl, .ok rfl (hs.holds_succeed hr).same⟩
  | error k => exact ⟨_, rfl, .error rfl⟩

/-- Two states that report one result have the same `ERR` and, after a success, the same sequence up to NaN patterns. -/
theorem State.Reports.agree {t t' : State} {d w : BufIx} {r : CmdResult} (h : t.Reports d r) (h' : t'.Reports w r) :
    t.err = t'.err ∧ (t.err = 0 → ∃ q q', t.Holds d q ∧ t'.Holds w q' ∧ SameSeq q q') := by
  cases h with
  | ok he hq =>
    cases h' with
    | ok he' hq' =>
      obtain ⟨q, hq, hsame⟩ := hq
      obtain ⟨q', hq', hsame'⟩ := hq'
      exact ⟨he.trans he'.symm, fun _ => ⟨q, q', hq, hq', hsame.symm.trans hsame'⟩⟩
  | error he =>
    cases h' with
    | error he' => exact ⟨he.trans he'.symm, fun h0 => absurd (he.symm.trans h0) (FailKind.code_ne_zero _)⟩

/-- The chain of commands `is` ends in a state that reports the result `r` in buffer `w`. -/
def ChainReports (is : List Instr) (s : State) (w : BufIx) (r : CmdResult) : Prop :=
  ∃ t, runChain is s = .next t ∧ t.Reports w r

section Chains

variable {s s' : State} {c : Config} {w v : BufIx} {A B : List Sample} {i : Instr} {rest : List Instr} {r : CmdResult}

theorem ChainReports.nil (h : s.Reports w r) : ChainReports [] s w r := ⟨s, rfl, h⟩

/-- After a success the chain goes on. -/
theorem ChainReports.cons (hx : exec i s = .next s') (he : s'.err = 0) (h : ChainReports rest s' w r) :
    ChainReports (i :: rest) s w r := by
  obtain ⟨t, ht, hrep⟩ := h
  exact ⟨t, by simp only [runChain, hx, he, if_true, ht], hrep⟩

/-- After a failure the chain stops. -/
theorem ChainReports.of_error {k : FailKind} (hr : cmdResult i s = .error k) (rest : List Instr) (w : BufIx) :
    ChainReports (i :: rest) s w (.error k) := by
  have hx : exec i s = .next (s.failWith k) := by rw [exec_eq_complete, hr]; rfl
  exact ⟨s.failWith k, by simp only [runChain, hx, State.failWith_err, k.code_ne_zero, if_false], .error rfl⟩

theorem isPow2_ne_zero {n : Nat} (h : isPow2 n = true) : n ≠ 0 := by
  obtain ⟨m, rfl⟩ := (isPow2_iff n).mp h
  exact (Nat.two_pow_pos m).ne'

/-- `MUL` and `IFFT` on the work buffers report what the tail of the composition answers. -/
theorem State.Working.chainReports_mul_ifft (h : s.Working c w v A B) (hwv : w ≠ v) (hA : isPow2 A.length = true)
    (hB : isPow2 B.length = true) (n : Nat) (l : Bool) :
    ChainReports [.mul w w v l, .ifft w w] s w (multiplyInverse c n A B l) := by
  have hsame := h.sameResult_mul (isPow2_ne_zero hA) (isPow2_ne_zero hB) [4, n] l
  rw [multiplyInverse]
  generalize hm : multiply [4, n] A B l = m at hsame
  generalize hr : cmdResult (.mul w w v l) s = m' at hsame
  cases hsame with
  | error k => exact .of_error hr _ _
  | @ok C _ t hC =>
    have hlen : isPow2 C.length = true := multiply_ok_length hm ▸ isPow2_min hA hB
    obtain ⟨s1, hx1, hw1⟩ := h.inPlace hwv rfl hr hC
    obtain ⟨s2, hx2, hw2⟩ := hw1.ifft_first hwv hlen [5, n]
    exact .cons hx1 hw1.err_eq (.cons hx2 hw2.err_eq (.nil (.ok hw2.err_eq hw2.first)))

/-- `CONJ` of the second work buffer, then a tail that works on its conjugate. -/
theorem State.Working.chainReports_conj_second (h : s.Working c w v A B) (hwv : w ≠ v) (hB : B.length ≠ 0)
    (htail : ∀ s', s'.Working c w v A (conjugate B) → ChainReports rest s' w r) :
    ChainReports (.conj v v :: rest) s w r := by
  obtain ⟨s', hx, hw⟩ := h.swap.conj_first hwv.symm hB
  exact .cons hx hw.err_eq (htail s' hw.swap)

/-- `PAD` of both operands and `FFT` of both work buffers, then a tail that reports the composition of the spectra: the
first `PAD` may overwrite its own source, but not the second one (R107). -/
theorem chainReports_compose {a b : BufIx} {Y : List Sample} {m : Nat} {g : List Sample → List Sample} {l : Bool}
    (hs : s.Inv) (hY : s.Holds b Y) (hwv : w ≠ v) (hwb : w ≠ b)
    (htail : ∀ s' FX FY, s'.Working s.cfg w v FX FY → isPow2 FX.length = true → isPow2 FY.length = true →
      ChainReports rest s' w (multiplyInverse s.cfg s.stamp FX (g FY) l)) :
    ChainReports (.pad w a m :: .pad v b m :: .fft w w :: .fft v v :: rest) s w (composeResult s a b m g l) := by
  cases hPX : padChecked s.cfg (s.operand a) m with
  | error k => rw [composeResult_of_first_error hPX]; exact .of_error (cmdResult_pad_of_error hPX w) _ _
  | ok PX =>
    obtain ⟨s1, hx1, hw1⟩ :=
      working_of_result (i := .pad w a m) hs hY.same hwb.symm (cmdResult_pad_of_ok hPX w) (.refl PX)
    refine .cons hx1 hw1.err_eq ?_
    have hY1 : s1.Holds b Y := hY.of_onlyBufferChanged (commandChangesOnlyItsDestination _ _ _ hs hx1).1 hwb.symm
      (hY.len_eq ▸ (hs.len_le b).trans (nmax_le hs.cfg_wf))
    have hpad : padChecked s1.cfg (s1.operand b) m = padChecked s.cfg (s.operand b) m := by
      rw [hw1.cfg_eq, hY1.operand_eq hY]
    cases hPY : padChecked s.cfg (s.operand b) m with
    | error k =>
      rw [composeResult_of_second_error hPX hPY]
      exact .of_error (cmdResult_pad_of_error (hpad.trans hPY) v) _ _
    | ok PY =>
      obtain ⟨-, -, rfl⟩ := padChecked_ok hPX
      obtain ⟨-, -, rfl⟩ := padChecked_ok hPY
      obtain ⟨s2, hx2, hw2⟩ := working_of_result (i := .pad v b m) hw1.inv hw1.first hwv
        (cmdResult_pad_of_ok (hpad.trans hPY) v) (.refl _)
      rw [hw1.cfg_eq] at hw2
      obtain ⟨s3, hx3, hw3⟩ := hw2.swap.fft_first hwv (isPow2_padSeq_length _ m) [2, s.stamp]
      obtain ⟨s4, hx4, hw4⟩ := hw3.swap.fft_first hwv.symm (isPow2_padSeq_length _ m) [3, s.stamp]
      rw [composeResult_of_padded hPX hPY]
      exact .cons hx2 hw2.err_eq <| .cons hx3 hw3.err_eq <| .cons hx4 hw4.err_eq <| htail s4 _ _ hw4.swap
        (isPow2_forward_padSeq_length _ _ _ m) (isPow2_forward_padSeq_length _ _ _ m)

/-- A chain that reports the result of a composition ends as the composition does. -/
theorem ChainReports.agrees {is : List Instr} (h : ChainReports is s w (cmdResult i s)) (hs : s.Inv) :
    ∃ t t', exec i s = .next t ∧ runChain is s = .next t' ∧ t.err = t'.err
      ∧ (t.err = 0 → ∃ q q', t.Holds i.dest q ∧ t'.Holds w q' ∧ SameSeq q q') := by
  obtain ⟨t, hx, hrep⟩ := exec_reports hs i
  obtain ⟨t', hchain, hrep'⟩ := h
  exact ⟨t, t', hx, hchain, hrep.agree hrep'⟩

end Chains

/-- Settles O54: each composition is one form, whose chain is the two pads and transforms, with `XCORR` a conjugation of the
second spectrum, and then the product transformed back. -/
theorem compositeEqualsTheChain : Obligations.CompositeEqualsTheChain := by
  intro d a b w v l s X Y hs hX hY hwv hwb
  have hmul : ∀ s' FX FY, s'.Working s.cfg w v FX FY → isPow2 FX.length = true → isPow2 FY.length = true →
      ChainReports [.mul w w v l, .ifft w w] s' w (multiplyInverse s.cfg s.stamp FX (id FY) l) :=
    fun s' FX FY hw hFX hFY => hw.chainReports_mul_ifft hwv hFX hFY _ _
  refine ⟨?_, ?_, ?_⟩
  · exact ChainReports.agrees (i := .conv d a b l) (chainReports_compose hs hY hwv hwb hmul) hs
  · rw [← hX.len_eq, ← hY.len_eq]
    exact ChainReports.agrees (i := .convir d a b l) (chainReports_compose hs hY hwv hwb hmul) hs
  · refine ChainReports.agrees (i := .xcorr d a b l) (chainReports_compose hs hY hwv hwb ?_) hs
    intro s' FX FY hw hFX hFY
    refine hw.chainReports_conj_second hwv (isPow2_ne_zero hFY) fun s'' hw' => ?_
    exact hw'.chainReports_mul_ifft hwv hFX (by rwa [conjugate_length]) _ _

end Sys2Proof.Machine
end
